-- ==== Sys2Proof/Word.lean ====
section
/-! DEFINITION. The word types of the manual (spec/00_scope.md 0.5.1, 0.5.2, 0.5.5). -/

namespace Sys2Proof

/-- A word is 32 bits (00 section 0.5.1). -/
abbrev Word := BitVec 32

abbrev Byte := BitVec 8

/-- A sequence number: 16 bits, counted modulo 65536 (R3). -/
abbrev Seq := BitVec 16

/-- The number of a word in the address space: the port's addresses are word-aligned (R138), so
the two low bits of the byte address are not carried. -/
abbrev WordAddr := BitVec 30

/-- A station, 0 to 5 (00 section 0.5.5). -/
abbrev StationId := Fin 6

/-- A set of stations, bit k for station k, as the job status record shows it (Table 12-7). -/
abbrev StationSet := BitVec 6

/-- A segment record: eight words (R1). -/
abbrev Record := Vector Word 8

/-- A control block: sixteen words (Tables 12-5 and 12-6). -/
abbrev Block := Vector Word 16

end Sys2Proof
end

