-- ==== Sys2Proof/Syntax.lean ====
section
/-! DEFINITION. The commands of the block: one constructor for each row of spec/opcode_table.json,
with the operands that the row's event carries. -/

namespace Sys2Proof

/-- One word of a write with its four byte enables (R138, R173). -/
structure WriteWord where
  data    : Word
  enables : BitVec 4
  deriving DecidableEq, Repr

/-- A write at the processor port: a word-aligned address, the first data word and the words after
it. A well-formed one has 1 to 8 words (R138). -/
structure WriteTxn where
  addr  : WordAddr
  first : WriteWord
  rest  : List WriteWord
  deriving DecidableEq, Repr

/-- Memory's answer to a read of `n` words: its words, or FAULT (R173). -/
inductive ReadAnswer (n : Nat) where
  | ok (data : Vector Word n)
  | fault
  deriving DecidableEq, Repr

/-- Memory's answer to a write (R173). -/
inductive WriteAnswer where
  | ok
  | fault
  deriving DecidableEq, Repr

/-- Memory's answer to a forwarded processor access; the data is that of a read (R141). -/
inductive ForwardAnswer where
  | ok (data : List Word)
  | fault
  deriving DecidableEq, Repr

/-- Requesters of the arbiter (Table 10-2). -/
inductive Requester where
  | transit
  | commandJob
  | commandStation (k : StationId)
  | status
  | drain (k : StationId)
  | replay
  deriving DecidableEq, Repr

/-- An answer of memory as a row brings it: to the transaction that the port carries, or to one that a
reset has abandoned. An answer belongs to the transaction presented (R173), so it says which; the
second kind is discarded and handed to no requester (R180, log 31). The answer of the first kind frees
the port, and a request that is made just then may meet the next grant in either order (R175): `late`
names the requesters whose request, if the answer's work makes one, comes after that grant (log 29). -/
inductive Arrived (α : Type) where
  | current (late : List Requester) (ans : α)
  | abandoned
  deriving DecidableEq, Repr

/-- The parity setting of a link (Table 6-1). -/
inductive Parity where
  | none
  | even
  | odd
  deriving DecidableEq, Repr

/-- The four line settings of a drive link (Table 6-1). -/
structure LineSettings where
  divisor     : Byte
  parity      : Parity
  twoStopBits : Bool
  invert      : Bool
  deriving DecidableEq, Repr

/-- A character as the receiver sampled it, true for the high level: bit i of `data` is the i-th
data bit in the order of the line (R100, R102). `begunUnder` is `none` when the character began
under the line settings now in force, and the older settings when it began before their change
(R101, log 15). A level that the settings do not sample is not read. -/
structure SampledChar where
  begunUnder : Option LineSettings
  data       : Byte
  parityHigh : Bool
  stop1High  : Bool
  stop2High  : Bool
  deriving DecidableEq, Repr

/-- A change of the boot bus, `after` LINKCLK periods from the beginning of its course: the levels that
SCL and SDA then take, true for high. -/
structure BusChange where
  after : Nat
  scl   : Bool
  sda   : Bool
  deriving DecidableEq, Repr

/-- The course of SCL and SDA while the boot loader watches them in WAITING (R183): the levels at its
entry, and the changes after it in their order. No row of the table is a change of these lines, so the
row by which the loader enters WAITING brings their course (log 16). -/
structure BusCourse where
  scl     : Bool
  sda     : Bool
  changes : List BusChange
  deriving DecidableEq, Repr

/-- The levels of the inputs taken when PORST_N is negated, true for high (R181), and the course of the
boot bus from there on (R183). -/
structure InputLevels where
  breaks   : BitVec 6
  stopHigh : Bool
  strapA   : Bool
  strapB   : Bool
  bus      : BusCourse
  deriving DecidableEq, Repr

/-- An attempt lost to another master (R184): the bytes read before, and the course of the boot bus from
the loss on. -/
structure LostAttempt where
  got : List Byte
  bus : BusCourse
  deriving DecidableEq, Repr

/-- The commands. A station command carries the words of the same write that precede the command
word (`pre`, all whole), since the command word is the last of its block (R161), and then the
command word's own fields; a bit that carries no field is an operand too (`spare`, `arg`, R190). -/
inductive Instr where
  -- resets and start-up
  | powerOnReset
  | porstNegation (levels : InputLevels)
  | busReset
  | busrstNegation
  | bootAttempt
  | bootBusBusyTimeout
  | bootDeviceNack
  | bootAddressNack
  | bootStretchTimeout (got : List Byte)
  | bootArbitrationLost (lost : LostAttempt)
  | bootReadEnd (bytes : Vector Byte 16)
  | initWriteAnswer (ans : Arrived WriteAnswer)
  -- the processor port; a read is of `more + 1` words
  | processorRead (addr : WordAddr) (more : Fin 8)
  | processorWrite (txn : WriteTxn)
  | scanReadAnswer (ans : Arrived (ReadAnswer 2))
  | detailReadAnswer (ans : Arrived (ReadAnswer 2))
  | forwardAnswer (ans : Arrived ForwardAnswer)
  | journalWindowWrite (txn : WriteTxn)
  | journalWriteAnswer (ans : Arrived WriteAnswer)
  | postWriteAnswer (ans : Arrived WriteAnswer)
  | descriptorTableWrite (txn : WriteTxn)
  | controlBlockWrite (txn : WriteTxn)
  | breakFilterTimeWrite (k : StationId) (w : Word)
  | breakPolarityWrite (k : StationId) (w : Word)
  | ackTimeoutWrite (k : StationId) (w : Word)
  | acknowledgeWrite (w : Word)
  | interruptEnableWrite (w : Word)
  -- job commands
  | openJob (pre : List Word) (spare : BitVec 7) (index : BitVec 5) (start : Seq)
  | openComplete (ans : Arrived (ReadAnswer 4))
  | closeJob (pre : List Word) (arg : BitVec 28)
  | jobBadCmd (pre : List Word) (code : BitVec 4) (arg : BitVec 28)
  -- station commands
  | attach (k : StationId) (pre : List Word) (spare : BitVec 12) (start : Seq)
  | attachComplete (ans : Arrived (ReadAnswer 4))
  | detach (k : StationId) (pre : List Word) (arg : BitVec 28)
  | reattach (k : StationId) (pre : List Word) (arg : BitVec 28)
  | hold (k : StationId) (pre : List Word) (arg : BitVec 28)
  | resume (k : StationId) (pre : List Word) (arg : BitVec 28)
  | clear (k : StationId) (pre : List Word) (arg : BitVec 28)
  | release (k : StationId) (pre : List Word) (arg : BitVec 28)
  | releaseComplete (k : StationId)
  | stationBadCmd (k : StationId) (pre : List Word) (code : BitVec 4) (arg : BitVec 28)
  -- replay engine and memory port
  | replayTurnGrant
  | replayReadAnswer (ans : Arrived (ReadAnswer 8))
  | replayWriteAnswer (ans : Arrived WriteAnswer)
  | arbiterGrant
  | statusWriteAnswer (ans : Arrived WriteAnswer)
  | drainReadAnswer (ans : Arrived (ReadAnswer 8))
  -- drive links: frames from the drive
  | frameEnd (k : StationId)
  | accFrame (k : StationId)
  | doneFrame (k : StationId)
  | nakCheck (k : StationId)
  | nakFull (k : StationId)
  | nakTravel (k : StationId)
  | fltFrame (k : StationId)
  -- drive links: the transmitter
  | ackTimerExpiry (k : StationId)
  | haltBegin (k : StationId)
  | goBegin (k : StationId)
  | segBegin (k : StationId)
  | resendBegin (k : StationId)
  | frameTransmitEnd (k : StationId)
  | readyChange (k : StationId) (asserted : Bool)
  -- break and stop inputs; a level is true for high
  | breakLineChange (k : StationId) (level : Bool)
  | breakQualifiedChange (k : StationId)
  | stopLineChange (level : Bool)
  | stopAssertion
  | stopNegation
  -- drive links: the receiver's characters
  | characterComplete (k : StationId) (sample : SampledChar)
  | lineReturnedToMark (k : StationId)
  deriving DecidableEq, Repr

end Sys2Proof
end

