-- ==== Sys2Proof/WellFormed.lean ====
section
/-! DEFINITION. The checks on a command that its types do not make: the lengths of its lists and the
range of a BAD_CMD code. -/

namespace Sys2Proof

/-- A transaction is of 1 to 8 words (R138). -/
def WriteTxn.wellFormed (t : WriteTxn) : Bool := decide (t.rest.length ≤ 7)

/-- The words before a command word in one write: at most seven (R138). -/
def preWellFormed (pre : List Word) : Bool := decide (pre.length ≤ 7)

/-- A boot attempt reads at most sixteen bytes (R183). -/
def bootBytesWellFormed (got : List Byte) : Bool := decide (got.length ≤ 16)

/-- The changes of a course come one after another, after its beginning (R183). -/
def changesRise : Nat → List BusChange → Bool
  | _, [] => true
  | t, c :: rest => decide (t < c.after) && changesRise c.after rest

def BusCourse.wellFormed (b : BusCourse) : Bool := changesRise 0 b.changes

/-- A command that the block's surroundings can send. -/
def Instr.wellFormed : Instr → Bool
  | .bootStretchTimeout got => bootBytesWellFormed got
  | .bootArbitrationLost lost => bootBytesWellFormed lost.got && lost.bus.wellFormed
  | .processorWrite t => t.wellFormed
  | .journalWindowWrite t => t.wellFormed
  | .descriptorTableWrite t => t.wellFormed
  | .controlBlockWrite t => t.wellFormed
  | .forwardAnswer (.current _ (.ok data)) => decide (data.length ≤ 8)
  | .forwardAnswer (.current _ .fault) => true
  | .forwardAnswer .abandoned => true
  | .openJob pre _ _ _ => preWellFormed pre
  | .closeJob pre _ => preWellFormed pre
  | .jobBadCmd pre code _ => preWellFormed pre && decide (3#4 ≤ code)
  | .attach _ pre _ _ => preWellFormed pre
  | .detach _ pre _ => preWellFormed pre
  | .reattach _ pre _ => preWellFormed pre
  | .hold _ pre _ => preWellFormed pre
  | .resume _ pre _ => preWellFormed pre
  | .clear _ pre _ => preWellFormed pre
  | .release _ pre _ => preWellFormed pre
  | .stationBadCmd _ pre code _ => preWellFormed pre && decide (8#4 ≤ code)
  | .powerOnReset => true
  | .porstNegation levels => levels.bus.wellFormed
  | .busReset => true
  | .busrstNegation => true
  | .bootAttempt => true
  | .bootBusBusyTimeout => true
  | .bootDeviceNack => true
  | .bootAddressNack => true
  | .bootReadEnd _ => true
  | .initWriteAnswer _ => true
  | .processorRead _ _ => true
  | .scanReadAnswer _ => true
  | .detailReadAnswer _ => true
  | .journalWriteAnswer _ => true
  | .postWriteAnswer _ => true
  | .breakFilterTimeWrite _ _ => true
  | .breakPolarityWrite _ _ => true
  | .ackTimeoutWrite _ _ => true
  | .acknowledgeWrite _ => true
  | .interruptEnableWrite _ => true
  | .openComplete _ => true
  | .attachComplete _ => true
  | .releaseComplete _ => true
  | .replayTurnGrant => true
  | .replayReadAnswer _ => true
  | .replayWriteAnswer _ => true
  | .arbiterGrant => true
  | .statusWriteAnswer _ => true
  | .drainReadAnswer _ => true
  | .frameEnd _ => true
  | .accFrame _ => true
  | .doneFrame _ => true
  | .nakCheck _ => true
  | .nakFull _ => true
  | .nakTravel _ => true
  | .fltFrame _ => true
  | .ackTimerExpiry _ => true
  | .haltBegin _ => true
  | .goBegin _ => true
  | .segBegin _ => true
  | .resendBegin _ => true
  | .frameTransmitEnd _ => true
  | .readyChange _ _ => true
  | .breakLineChange _ _ => true
  | .breakQualifiedChange _ => true
  | .stopLineChange _ => true
  | .stopAssertion => true
  | .stopNegation => true
  | .characterComplete _ _ => true
  | .lineReturnedToMark _ => true

end Sys2Proof
end

