-- ==== Sys2Proof/Decode.lean ====
section
/-! DEFINITION. The command that a word spells by the table's bits. No row of
spec/opcode_table.json gives bits (spec/98_reader.md: 68 rows, none with fixed bits or fields), so
no word spells a command. -/

namespace Sys2Proof

/-- No row of the table gives bits: no word of any width spells a command. -/
def decodeTableWord (_nbits _w : Nat) : Option Instr := none

end Sys2Proof
end

