-- ==== Sys2Proof/Config.lean ====
section
/-! DEFINITION. What the part fixes: its clocks and its fixed time limits, and the one value on which
the manual is silent, as a free value (log 34). -/

namespace Sys2Proof.Config

/-- LINKCLK is 48 MHz (Table 0-3, R100): 48 periods in a microsecond. -/
def cyclesPerMicrosecond : Nat := 48

def cyclesPerMillisecond : Nat := 1000 * cyclesPerMicrosecond

/-- One unit of the break filter time is 64 µs (R129). -/
def filterUnit : Nat := 64 * cyclesPerMicrosecond

/-- The stop monitor's fixed filter time, 4 × 64 µs (R134). -/
def stopFilterTime : Nat := 4 * filterUnit

/-- The boot bus must become free within 100 ms (R183). -/
def bootBusWait : Nat := 100 * cyclesPerMillisecond

/-- The boot bus is free when both its lines have stayed high for 100 µs (R183). -/
def bootBusQuiet : Nat := 100 * cyclesPerMicrosecond

/-- The fields of a copy that no rule states for a kind of 7 to 15: coordinates, feed and the two flags
(R10, R11, R14 and R17 name other kinds). -/
structure FreeCopy where
  x         : Word
  y         : Word
  z         : Word
  feed      : BitVec 16
  clamped   : Bool
  feedClamp : Bool
  deriving DecidableEq, Repr

/-- FREE VALUE (log 34, DESIGN CHOICE). What the transform makes of a record whose kind is 7 to 15: the
fields that no rule states, or `none` for a travel fault. No commit stores such a record (R6), but a
replay turn reads one back when an alias has put it into the journal with a right check word and
sequence number, and the replay turn does not apply the format checks (R5). Nothing constrains it. -/
opaque copyOfUnknownKind : Block → Record → Option FreeCopy

end Sys2Proof.Config
end

