-- ==== Sys2Proof/Machine/State.lean ====
section
/-! DEFINITION. Everything the manual gives the CPI-6 to hold, as plain data, and its power-on values.
A reason or code that exists in one state alone is an argument of that state's constructor, so the
rule that it is NONE elsewhere (R51, R53) holds by form. Times are in LINKCLK periods (log 3). -/

namespace Sys2Proof.Machine

/-! ### Reasons a step can stop -/

/-- The manual names nothing that stops the part: a bad transaction, record, frame or memory answer
is answered, logged or counted, and the part goes on. So there is no fault (log 35). Safe. -/
inductive Fault where
  deriving DecidableEq, Repr

/-- Reasons to have no meaning. -/
inductive Refusal where
  /-- Raised by an arm of `exec` that has no meaning yet; no arm is one. Safe. -/
  | notModelled (mnemonic : String)
  deriving DecidableEq, Repr

/-! ### The job (chapter 2) -/

/-- Job state NONE, OPEN, CLOSED (R20). -/
inductive JobState where
  | noJob
  | opened
  | closed
  deriving DecidableEq, Repr

/-- The overwrite policy (R27). -/
inductive Policy where
  | keep
  | yield
  deriving DecidableEq, Repr

/-- Results of commands (R23, R60), coded as section 12.3.2 gives them. -/
inductive Result where
  | ok
  | badState
  | badArg
  | noJob
  | noRing
  | stopActive
  | breakActive
  | haltPending
  | badCmd
  deriving DecidableEq, Repr

/-- The journal controller, the record assembler and the job command slot (Table 2-2, R151). -/
structure Job where
  state       : JobState
  journal     : Option (BitVec 5)
  base        : Word
  slots       : Nat
  start       : Seq
  frontier    : Seq
  counter     : BitVec 16
  inFlight    : Bool
  policy      : Policy
  mask        : BitVec 8
  holders     : Record
  opening     : Option (BitVec 5 × Seq)
  lastCommand : BitVec 4
  lastResult  : Result
  searches    : BitVec 16
  deriving DecidableEq, Repr

/-! ### The stations (chapter 3) -/

/-- Why a feed is LOST (R51). -/
inductive LossReason where
  | overwritten
  | check
  | memory
  deriving DecidableEq, Repr

/-- Where a station's copies come from (R50), with the loss reason of LOST. -/
inductive Feed where
  | off
  | live
  | detached
  | catchup
  | lost (reason : LossReason)
  deriving DecidableEq, Repr

/-- Why a drive is HELD (R53). -/
inductive HoldReason where
  | attach
  | operator
  | breakLine
  | stopLine
  | cleared
  deriving DecidableEq, Repr

/-- Why a drive is in FAULT (R53); DRIVE_FAULT carries the drive's own code byte. -/
inductive FaultCode where
  | linkTimeout
  | driveRefused
  | driveFault (code : Byte)
  | travel
  | memory
  | ringCheck
  deriving DecidableEq, Repr

/-- What a station's link may do (R52), with the hold reason or fault code. -/
inductive Drive where
  | stopped
  | running
  | held (reason : HoldReason)
  | fault (code : FaultCode)
  deriving DecidableEq, Repr

/-- The station's command slot: idle, or busy with an ATTACH (its captured ring index and starting
sequence, R61) or a RELEASE (R69). -/
inductive Progress where
  | idle
  | attaching (index : BitVec 5) (start : Seq)
  | releasing
  deriving DecidableEq, Repr

/-- The six counters of a station (Table 3-5). -/
structure Counters where
  linkErrors : BitVec 16
  overruns   : BitVec 16
  stale      : BitVec 16
  retries    : BitVec 16
  clamps     : BitVec 16
  breaks     : BitVec 16
  deriving DecidableEq, Repr

/-- One station context (Table 3-1). -/
structure Station where
  feed        : Feed
  drive       : Drive
  ring        : Option (BitVec 5)
  ringBase    : Word
  capacity    : Nat
  post        : Seq
  send        : Seq
  done        : Seq
  progress    : Progress
  lastCommand : BitVec 4
  lastResult  : Result
  counters    : Counters
  deriving DecidableEq, Repr

/-! ### The drive links (chapter 6) -/

/-- The control-frame slot (R110). -/
inductive ControlSlot where
  | empty
  | halt (reason : Byte)
  | go
  deriving DecidableEq, Repr

/-- The staging buffer: nothing, the copy of `seq`, or `seq` marked spoiled (R112, R113). -/
inductive Staging where
  | empty
  | copy (seq : Seq) (record : Record)
  | spoiled (seq : Seq)
  deriving DecidableEq, Repr

/-- A drain read standing or in flight (R111, R113). -/
structure DrainRead where
  seq    : Seq
  addr   : Word
  marked : Bool
  deriving DecidableEq, Repr

/-- The phase of the outstanding SEG (Table 6-4). -/
inductive SegPhase where
  | waiting
  | resend
  | onWire
  deriving DecidableEq, Repr

structure OutstandingSeg where
  seq   : Seq
  phase : SegPhase
  deriving DecidableEq, Repr

/-- The running ack timer: when it was started and for how long (R116). -/
structure AckTimer where
  start : Nat
  limit : Nat
  deriving DecidableEq, Repr

/-- What the frame in transmission is; a SEG whose transmission saw a rewind is void (R115). -/
inductive TxKind where
  | halt
  | go
  | seg (seq : Seq) (void : Bool)
  | resend (seq : Seq) (void : Bool)
  deriving DecidableEq, Repr

/-- The frame in transmission (R108). -/
structure Tx where
  kind  : TxKind
  bytes : List Byte
  start : Nat
  deriving DecidableEq, Repr

/-- A frame being received is examined at its end, or dropped to its end as an overrun (R106) or
because a bus reset came while it was received (R128, log 14). -/
inductive RxMode where
  | received
  | overrun
  | dropped
  deriving DecidableEq, Repr

/-- The frame assembler: the first five bytes and the count of all (R105), the taint (R102), and
the time of the last complete character (R103). -/
structure RxFrame where
  mode    : RxMode
  kept    : List Byte
  count   : Nat
  tainted : Bool
  lastAt  : Nat
  deriving DecidableEq, Repr

/-- A good frame from the drive, as the receive queue holds it (R105). -/
inductive DriveFrame where
  | acc (seq : Seq)
  | done (seq : Seq)
  | nak (seq : Seq) (reason : Byte)
  | flt (code : Byte)
  deriving DecidableEq, Repr

/-- One link controller (Table 6-5). -/
structure Link where
  line        : LineSettings
  resetWork   : Bool
  tx          : Option Tx
  gapFrom     : Nat
  slot        : ControlSlot
  staging     : Staging
  drain       : Option DrainRead
  outstanding : Option OutstandingSeg
  ackTimer    : Option AckTimer
  retry       : Nat
  fullWait    : Bool
  ready       : Bool
  waitMark    : Bool
  rx          : Option RxFrame
  queue       : List DriveFrame
  deriving DecidableEq, Repr

/-! ### Inputs, gate, replay engine -/

/-- An input monitor (R129, R134): raw and qualified level (true for high) and, while the stability
timer runs, the time it was started. -/
structure Monitor where
  raw       : Bool
  qualified : Bool
  timer     : Option Nat
  deriving DecidableEq, Repr

/-- An entry of the gate list (R88). -/
structure GateEntry where
  seq     : Seq
  doneSet : StationSet
  deriving DecidableEq, Repr

/-- The sync gate (R88): the list, oldest entry first, and the member set. -/
structure Gate where
  entries : List GateEntry
  members : StationSet
  deriving DecidableEq, Repr

/-- The turn in flight (R75); `copy` is there from the read's answer to the ring write's (R83). -/
structure ReplayTurn where
  station  : StationId
  seq      : Seq
  slotAddr : Word
  marked   : Bool
  copy     : Option Record
  deriving DecidableEq, Repr

structure Replay where
  position : StationId
  turn     : Option ReplayTurn
  deriving DecidableEq, Repr

/-! ### The memory port (chapter 10) -/

/-- Origins (Table 9-4; R173). -/
inductive Origin where
  | processor
  | table
  | command
  | journal
  | post
  | replay
  | drain
  | status
  | boot
  deriving DecidableEq, Repr

inductive MemOp where
  | read (count : Nat)
  | write (words : List WriteWord)
  deriving DecidableEq, Repr

/-- A transaction at the memory port (R173). -/
structure MemTxn where
  origin : Origin
  addr   : Word
  op     : MemOp
  deriving DecidableEq, Repr

structure InFlight where
  who : Requester
  txn : MemTxn
  deriving DecidableEq, Repr

/-- Who holds the port across transactions (R177). -/
inductive Holder where
  | replay
  | status
  deriving DecidableEq, Repr

/-- The port and its arbiter. `late` holds the requests that were made as the port became free and come
after its next grant, so that they wait for the grant after it (R175, log 29). -/
structure Port where
  inFlight : Option InFlight
  hold     : Option Holder
  drainPos : StationId
  late     : List Requester
  deriving DecidableEq, Repr

/-! ### The processor port, the transit path and the window cache (chapter 8) -/

/-- A transaction at the processor port (R138); a read is of `more + 1` words. -/
inductive ProcTxn where
  | read (addr : WordAddr) (more : Fin 8)
  | write (txn : WriteTxn)
  deriving DecidableEq, Repr

/-- Error kinds (Table 9-4). -/
inductive ErrorKind where
  | unmapped
  | overlap
  | badDesc
  | access
  | burstCross
  | partialWord
  | noJob
  | rewrite
  | gap
  | badCheck
  | badSeq
  | badFormat
  | statusWrite
  | configLocked
  | memFault
  | bootBad
  deriving DecidableEq, Repr

/-- Answers of the processor port (R138). -/
inductive ProcAnswer where
  | done (data : List Word)
  | retry
  | error (kind : ErrorKind)
  deriving DecidableEq, Repr

/-- The work done on the transaction's behalf, with the memory transaction of it that is requested
or in flight: the forwarded access at its memory address (R141, R152), the scan with the words
read so far (R148), the detail read of the chosen descriptor (R149), the commit's journal write
with its fan-out set (R39), and its ring write to one station with the stations after it (R40). -/
inductive TransitWork where
  | forward (addr : Word)
  | scan (got : List (Word × Word))
  | detail (index : BitVec 5) (w0 w1 : Word)
  | journalWrite (fanOut : List StationId)
  | postWrite (k : StationId) (addr : Word) (copy : Record) (rest : List StationId)
  deriving DecidableEq, Repr

structure Access where
  txn  : ProcTxn
  work : TransitWork
  deriving DecidableEq, Repr

/-- The transaction in progress, and the answer the port gave last (log 25). -/
structure ProcPort where
  current : Option Access
  answer  : Option ProcAnswer
  deriving DecidableEq, Repr

/-- The four words of a descriptor (Table 12-3). -/
structure Descriptor where
  w0 : Word
  w1 : Word
  w2 : Word
  w3 : Word
  deriving DecidableEq, Repr

structure CacheEntry where
  index : BitVec 5
  desc  : Descriptor
  deriving DecidableEq, Repr

/-- The window cache (R146): eight entries and the recency order, most recently used first. -/
structure Cache where
  entries : Vector (Option CacheEntry) 8
  recency : List (Fin 8)
  deriving DecidableEq, Repr

/-! ### The control page logic and the status writer (chapter 9) -/

/-- The seven shadows (R158). -/
structure Shadows where
  stations : Vector Block 6
  job      : Block
  deriving DecidableEq, Repr

/-- The nine status records (Table 9-2). -/
inductive RecordId where
  | summary
  | errorLog
  | job
  | station (k : StationId)
  deriving DecidableEq, Repr

/-- The mark of each record (R163). -/
structure Marks where
  summary  : Bool
  errorLog : Bool
  job      : Bool
  stations : StationSet
  deriving DecidableEq, Repr

/-- The owed set of each record, as bits of the pending word (R163, R166). -/
structure Owed where
  summary  : Word
  errorLog : Word
  job      : Word
  stations : Vector Word 6
  deriving DecidableEq, Repr

/-- A status write in flight: the record it carries (none for the other writes of the
initialization pass), its owed set, and the half still to be written with its address (R164). -/
structure StatusWrite where
  record : Option RecordId
  owed   : Word
  upper  : Option (Word × Record)
  deriving DecidableEq, Repr

/-- The status writer; `position` is the last record chosen in the cycle error log, job status,
station status 0 to 5 (R163). -/
structure Writer where
  marks    : Marks
  owed     : Owed
  position : Fin 8
  write    : Option StatusWrite
  pending  : Word
  deriving DecidableEq, Repr

/-- The error log's record (R170); an empty log is `none`. -/
structure LogEntry where
  kind     : ErrorKind
  origin   : Origin
  write    : Bool
  addr     : Word
  data     : Word
  station  : Option StationId
  overflow : Byte
  deriving DecidableEq, Repr

/-! ### Start-up (chapter 11) -/

inductive BootState where
  | idle
  | waiting
  | reading
  | done
  deriving DecidableEq, Repr

/-- The latched boot record: the control page and window space (R140, R185). -/
structure Regions where
  page     : Word
  window   : Word
  sizeCode : Nat
  deriving DecidableEq, Repr

/-- What the boot loader makes on the boot bus (R183): a START, repeated START or STOP, a bit that it
sends, the acknowledge bit of a device, a bit that a device sends, its own acknowledge, or none. -/
inductive BusAct where
  | start
  | restart
  | stop
  | send (bit : Bool)
  | awaitAck
  | receive
  | acknowledge
  | notAcknowledge
  deriving DecidableEq, Repr

/-- What the boot loader drives on SCL and SDA: each line only low, or released (R183). -/
structure BusDrive where
  sclLow : Bool
  sdaLow : Bool
  deriving DecidableEq, Repr

/-- The boot loader (R183) and its initialization pass (R186). `bus` is the course of SCL and SDA since
the latest entry into WAITING, and `drives` what the loader makes on them from its latest row on, cut
short by the row that ends an attempt; both lines are released before and after it. -/
structure Boot where
  state        : BootState
  attempts     : Nat
  bytes        : List Byte
  waitingSince : Nat
  bus          : BusCourse
  drives       : List BusAct
  strapA       : Bool
  strapB       : Bool
  latched      : Option Regions
  pass         : Option Nat
  deriving DecidableEq, Repr

/-! ### The whole -/

/-- The state of the CPI-6, the queue of commands that wait, and the model's time. -/
structure State where
  now      : Nat
  pending  : List Instr
  porst    : Bool
  busrst   : Bool
  taking   : Bool
  boot     : Boot
  proc     : ProcPort
  cache    : Cache
  shadows  : Shadows
  job      : Job
  stations : Vector Station 6
  links    : Vector Link 6
  breaks   : Vector Monitor 6
  stop     : Monitor
  gate     : Gate
  replay   : Replay
  port     : Port
  writer   : Writer
  log      : Option LogEntry
  deriving DecidableEq, Repr

/-! ### Power-on values -/

def zeroRecord : Record := Vector.replicate 8 0#32

/-- Table 2-2. -/
def Job.reset : Job where
  state := .noJob
  journal := none
  base := 0#32
  slots := 0
  start := 0#16
  frontier := 0#16
  counter := 0#16
  inFlight := false
  policy := .keep
  mask := 0#8
  holders := zeroRecord
  opening := none
  lastCommand := 0#4
  lastResult := .ok
  searches := 0#16

def Counters.reset : Counters := ⟨0#16, 0#16, 0#16, 0#16, 0#16, 0#16⟩

/-- Table 3-6. -/
def Station.reset : Station where
  feed := .off
  drive := .stopped
  ring := none
  ringBase := 0#32
  capacity := 0
  post := 0#16
  send := 0#16
  done := 0#16
  progress := .idle
  lastCommand := 0#4
  lastResult := .ok
  counters := Counters.reset

def LineSettings.reset : LineSettings := ⟨0#8, .none, false, false⟩

/-- Table 6-5; `ready` is a pin (log 6, log 7) and `gapFrom` the time of the reset (log 12). -/
def Link.reset : Link where
  line := LineSettings.reset
  resetWork := false
  tx := none
  gapFrom := 0
  slot := .empty
  staging := .empty
  drain := none
  outstanding := none
  ackTimer := none
  retry := 0
  fullWait := false
  ready := false
  waitMark := false
  rx := none
  queue := []

/-- R146: every entry invalid, the recency order empty. -/
def Cache.reset : Cache := ⟨Vector.replicate 8 none, []⟩

/-- A station shadow after reset: zero but p = q = 1 (R158, Table 12-5). -/
def Block.stationReset : Block := (Vector.replicate 16 0#32).set 1 0x00010001#32

/-- R158. -/
def Shadows.reset : Shadows := ⟨Vector.replicate 6 Block.stationReset, Vector.replicate 16 0#32⟩

def Marks.reset : Marks := ⟨false, false, false, 0#6⟩

def Owed.reset : Owed := ⟨0#32, 0#32, 0#32, Vector.replicate 6 0#32⟩

/-- Table 9-5. -/
def Writer.reset : Writer := ⟨Marks.reset, Owed.reset, 7, none, 0#32⟩

/-- R88. -/
def Gate.reset : Gate := ⟨[], 0#6⟩

/-- R75. -/
def Replay.reset : Replay := ⟨5, none⟩

/-- R180. -/
def Port.reset : Port := ⟨none, none, 5, []⟩

/-- R181, R183. -/
def Boot.reset : Boot where
  state := .idle
  attempts := 0
  bytes := []
  waitingSince := 0
  bus := ⟨true, true, []⟩
  drives := []
  strapA := false
  strapB := false
  latched := none
  pass := none

/-- The machine right after power-on reset, as the assertion of PORST_N leaves it (R181): every
block in its power-on values, the boot loader IDLE, no boot record latched, the error log empty.
The input levels are taken at the negation (logs 5 and 6). -/
def State.reset : State where
  now := 0
  pending := []
  porst := true
  busrst := false
  taking := false
  boot := Boot.reset
  proc := ⟨none, none⟩
  cache := Cache.reset
  shadows := Shadows.reset
  job := Job.reset
  stations := Vector.replicate 6 Station.reset
  links := Vector.replicate 6 Link.reset
  breaks := Vector.replicate 6 ⟨false, false, none⟩
  stop := ⟨true, true, none⟩
  gate := Gate.reset
  replay := Replay.reset
  port := Port.reset
  writer := Writer.reset
  log := none

end Sys2Proof.Machine
end

