-- ==== Sys2Proof/Machine/Operands.lean ====
section
/-! DEFINITION. Reading and building what the part handles: sequence numbers, segment records,
descriptors, control block fields, link frames, times, the boot record. Field positions are those
of spec/12_formats.md. -/

namespace Sys2Proof.Machine

/-! ### Words and fields -/

/-- Bits `pos + width - 1` down to `pos` of a word, as a number. -/
def fieldOf (w : Word) (pos width : Nat) : Nat := (w.extractLsb' pos width).toNat

/-- A number placed at bit `pos` of a word. -/
def place (n pos : Nat) : Word := BitVec.ofNat 32 n <<< pos

/-- A flag placed at bit `pos` of a word. -/
def placeFlag (b : Bool) (pos : Nat) : Word := place b.toNat pos

/-- The byte address of a word address. -/
def byteAddr (a : WordAddr) : Word := a ++ 0#2

/-- A word is whole when all four byte enables are set (R138). -/
def wholeWord (w : WriteWord) : Bool := w.enables == 0xF#4

/-- A word of a write the interposer makes itself, always whole (R173). -/
def asWhole (w : Word) : WriteWord := ⟨w, 0xF#4⟩

def txnWords (t : WriteTxn) : List WriteWord := t.first :: t.rest

/-- 16-bit counters stop at 65535 (R22, R71, R151). -/
def satInc (c : BitVec 16) : BitVec 16 := if c = 0xFFFF#16 then c else c + 1#16

/-- The overflow count stops at 255 (R169). -/
def satIncByte (c : Byte) : Byte := if c = 0xFF#8 then c else c + 1#8

/-- The bytes of a word, least significant first (R189). -/
def wordBytes (w : Word) : List Byte :=
  [w.extractLsb' 0 8, w.extractLsb' 8 8, w.extractLsb' 16 8, w.extractLsb' 24 8]

/-- The little-endian word of four bytes (R189). -/
def wordOfBytes (b0 b1 b2 b3 : Byte) : Word := b3 ++ b2 ++ b1 ++ b0

/-! ### Stations -/

/-- Station order (00 section 0.5.5). -/
def stationOrder : List StationId := [0, 1, 2, 3, 4, 5]

/-- The six stations in cyclic order, beginning after `p` (R77, R176). -/
def stationsAfter (p : StationId) : List StationId := [p + 1, p + 2, p + 3, p + 4, p + 5, p]

def stationBit (k : StationId) : StationSet := 1#6 <<< k.val

def inSet (k : StationId) (m : StationSet) : Bool := m.getLsbD k.val

/-! ### Sequence numbers -/

/-- The distance from a to b (R3). -/
def seqDist (a b : Seq) : Nat := (b - a).toNat

/-- a is before b: the distance from a to b lies in 1..32767 (R3). -/
def seqBefore (a b : Seq) : Bool := decide (1 ≤ seqDist a b ∧ seqDist a b ≤ 32767)

/-- The slot of a sequence number in a structure of capacity K (R3). -/
def slotOf (s : Seq) (capacity : Nat) : Nat := s.toNat % capacity

/-- The address of slot k of a structure of records (R21, R48). -/
def slotAddr (base : Word) (slot : Nat) : Word := base + BitVec.ofNat 32 (32 * slot)

/-! ### The segment record (Table 12-2) -/

/-- The seven kinds (Table 1-1). -/
inductive Kind where
  | line
  | arcCw
  | arcCcw
  | dwell
  | tool
  | mark
  | endJob
  deriving DecidableEq, Repr

/-- Values 7 to 15 are not valid (Table 1-1). -/
def kindOfCode (n : Nat) : Option Kind :=
  match n with
  | 0 => some .line
  | 1 => some .arcCw
  | 2 => some .arcCcw
  | 3 => some .dwell
  | 4 => some .tool
  | 5 => some .mark
  | 6 => some .endJob
  | _ => none

def kindCode : Kind → BitVec 4
  | .line => 0#4
  | .arcCw => 1#4
  | .arcCcw => 2#4
  | .dwell => 3#4
  | .tool => 4#4
  | .mark => 5#4
  | .endJob => 6#4

def recSeq (r : Record) : Seq := r[0].extractLsb' 0 16
def recKind (r : Record) : Option Kind := kindOfCode (fieldOf r[0] 16 4)
def recTool (r : Record) : BitVec 4 := r[0].extractLsb' 20 4
def recSync (r : Record) : Bool := r[0].getLsbD 24
def recClamped (r : Record) : Bool := r[0].getLsbD 25
def recFeedClamp (r : Record) : Bool := r[0].getLsbD 26
def recFeed (r : Record) : Nat := fieldOf r[6] 0 16
def recSpeed (r : Record) : BitVec 16 := r[6].extractLsb' 16 16

/-- The check word: the complement of the sum of words 0 to 6 modulo 2^32 (R4). -/
def checkWord (w0 w1 w2 w3 w4 w5 w6 : Word) : Word := ~~~(w0 + w1 + w2 + w3 + w4 + w5 + w6)

/-- R4. -/
def checkCorrect (r : Record) : Bool := r[7] == checkWord r[0] r[1] r[2] r[3] r[4] r[5] r[6]

/-- A record read back matches s when it is check-correct and its seq equals s (R5). -/
def recMatches (r : Record) (s : Seq) : Bool := checkCorrect r && recSeq r == s

/-- Kinds whose coordinates and feed are read (Table 1-2). -/
def isMotion (k : Kind) : Bool :=
  match k with
  | .line => true
  | .arcCw => true
  | .arcCcw => true
  | .dwell => false
  | .tool => false
  | .mark => false
  | .endJob => false

/-- A master record is well-formed (R6). -/
def recWellFormed (r : Record) : Bool :=
  match recKind r with
  | none => false
  | some k =>
    !recClamped r && !recFeedClamp r
      && (k != .line || decide (r[4].toNat ≤ 359999))
      && (!isMotion k || recFeed r != 0)

/-! ### Descriptors (Table 12-3) -/

/-- Window kinds (Table 8-1); 3 is reserved. -/
inductive WindowKind where
  | pass
  | journal
  | ring
  deriving DecidableEq, Repr

def descValid (w0 : Word) : Bool := w0.getLsbD 0

def descKind (w0 : Word) : Option WindowKind :=
  match fieldOf w0 4 2 with
  | 0 => some .pass
  | 1 => some .journal
  | 2 => some .ring
  | _ => none

def descSizeCode (w0 : Word) : Nat := fieldOf w0 8 4
def descPriority (d : Descriptor) : Nat := fieldOf d.w2 0 2
def descAccess (d : Descriptor) : Nat := fieldOf d.w2 4 2
def descStation (d : Descriptor) : Nat := fieldOf d.w2 8 3

/-- 512 × 2^n bytes (00 section 0.5.4). -/
def windowSize (code : Nat) : Nat := 512 * 2 ^ code

/-- The start of a descriptor's range: the base with its low bits below the size taken as zero
(R145). -/
def rangeStart (w0 w1 : Word) : Nat :=
  w1.toNat - w1.toNat % windowSize (descSizeCode w0)

/-- An address lies in the range of a descriptor (R145). -/
def inRange (w0 w1 : Word) (a : Word) : Bool :=
  decide (rangeStart w0 w1 ≤ a.toNat ∧ a.toNat < rangeStart w0 w1 + windowSize (descSizeCode w0))

/-- Two blocks share at least one byte. -/
def blocksMeet (a sizeA b sizeB : Nat) : Bool := decide (a < b + sizeB ∧ b < a + sizeA)

/-- Two descriptors' ranges overlap (R145). -/
def rangesOverlap (a0 a1 b0 b1 : Word) : Bool :=
  blocksMeet (rangeStart a0 a1) (windowSize (descSizeCode a0))
    (rangeStart b0 b1) (windowSize (descSizeCode b0))

/-- The control page is 2 KB (R140). -/
def pageSize : Nat := 2048

def alignedTo (a : Word) (size : Nat) : Bool := a.toNat % size == 0

/-- A block starting at `a` shares no byte with the control page. -/
def clearOfPage (page a : Word) (size : Nat) : Bool := !blocksMeet a.toNat size page.toNat pageSize

/-- Kind, priority and access hold no reserved value (R144). -/
def noReserved (d : Descriptor) : Bool :=
  (descKind d.w0).isSome && descPriority d != 3 && descAccess d != 3

/-- A valid descriptor is usable (R144). -/
def descUsable (page : Word) (d : Descriptor) : Bool :=
  let n := descSizeCode d.w0
  noReserved d && alignedTo d.w1 (windowSize n)
    && match descKind d.w0 with
       | some .pass => alignedTo d.w3 (windowSize n) && clearOfPage page d.w3 (windowSize n)
       | some .journal => decide (2 ≤ n ∧ n ≤ 10)
       | some .ring => decide (n ≤ 6 ∧ descStation d ≤ 5)
       | none => false

/-- The tests that OPEN makes on its descriptor (R25 case 3). -/
def journalAccepted (page : Word) (d : Descriptor) : Bool :=
  let n := descSizeCode d.w0
  descValid d.w0 && descKind d.w0 == some .journal && decide (2 ≤ n ∧ n ≤ 10) && noReserved d
    && alignedTo d.w1 (windowSize n) && clearOfPage page d.w1 (windowSize n)

/-- The tests that ATTACH of station k makes on its descriptor (R62 case 2). -/
def ringAccepted (page : Word) (k : StationId) (d : Descriptor) : Bool :=
  let n := descSizeCode d.w0
  descValid d.w0 && descKind d.w0 == some .ring && descStation d == k.val && decide (n ≤ 6)
    && noReserved d && alignedTo d.w1 (windowSize n) && clearOfPage page d.w1 (windowSize n)

/-- N or C: the window's size in bytes divided by 32 (R21, R48). -/
def slotCount (d : Descriptor) : Nat := windowSize (descSizeCode d.w0) / 32

/-- The four words of a COMMAND read. -/
def descOf (v : Vector Word 4) : Descriptor := ⟨v[0], v[1], v[2], v[3]⟩

/-! ### Station control block fields (Table 12-5) -/

def cbRingIndex (b : Block) : BitVec 5 := b[0].extractLsb' 0 5

/-- Lag policy DETACH is 1; every other value acts as STALL (R59). -/
def cbLagDetach (b : Block) : Bool := fieldOf b[0] 8 2 == 1

def cbMirrorX (b : Block) : Bool := b[0].getLsbD 16
def cbMirrorY (b : Block) : Bool := b[0].getLsbD 17
def cbMirrorA (b : Block) : Bool := b[0].getLsbD 18
def cbScaleP (b : Block) : Nat := fieldOf b[1] 0 16
def cbScaleQ (b : Block) : Nat := fieldOf b[1] 16 16
def cbOx (b : Block) : Int := b[2].toInt
def cbOy (b : Block) : Int := b[3].toInt
def cbOz (b : Block) : Int := b[4].toInt
def cbOa (b : Block) : Int := b[5].toInt
def cbZfloor (b : Block) : Int := b[6].toInt
def cbZmax (b : Block) : Int := b[7].toInt
def cbXmin (b : Block) : Int := b[8].toInt
def cbXmax (b : Block) : Int := b[9].toInt
def cbYmin (b : Block) : Int := b[10].toInt
def cbYmax (b : Block) : Int := b[11].toInt
def cbTlo (b : Block) : Int := b[13].toInt

/-- Parity value 3 acts as NONE (R100). -/
def parityOfCode (n : Nat) : Parity :=
  match n with
  | 1 => .even
  | 2 => .odd
  | _ => .none

/-- The line settings of word 12 (R101). -/
def cbLine (b : Block) : LineSettings where
  divisor := b[12].extractLsb' 0 8
  parity := parityOfCode (fieldOf b[12] 8 2)
  twoStopBits := b[12].getLsbD 10
  invert := b[12].getLsbD 11

/-- Queue depth: 0 acts as 1 and a value above 8 acts as 8 (R101). -/
def cbQueueDepth (b : Block) : Nat := max 1 (min 8 (fieldOf b[12] 12 4))

def cbRetryLimit (b : Block) : Nat := fieldOf b[12] 16 3

/-- The break filter time in LINKCLK periods: F × 64 µs (R129). -/
def cbFilterTime (b : Block) : Nat := fieldOf b[14] 0 4 * Config.filterUnit

/-- Break polarities; the value 3 acts as BOTH (R131). -/
inductive Polarity where
  | rising
  | falling
  | both
  deriving DecidableEq, Repr

def cbPolarity (b : Block) : Polarity :=
  match fieldOf b[14] 4 2 with
  | 0 => .rising
  | 1 => .falling
  | _ => .both

/-- The ack timeout in LINKCLK periods; 0 acts as 1 ms (R101). -/
def cbAckTimeout (b : Block) : Nat := max 1 (fieldOf b[14] 8 8) * Config.cyclesPerMillisecond

/-! ### Command words (Tables 12-5 and 12-6) -/

def cmdCode (w : Word) : BitVec 4 := w.extractLsb' 0 4
def cmdSeq (w : Word) : Seq := w.extractLsb' 16 16
def cmdIndex (w : Word) : BitVec 5 := w.extractLsb' 4 5

/-- The job command word of OPEN: code 1, index at 8:4, start at 31:16. -/
def openWord (spare : BitVec 7) (index : BitVec 5) (start : Seq) : Word :=
  start ++ spare ++ index ++ 1#4

/-- The station command word of ATTACH: code 1, S at 31:16. -/
def attachWord (spare : BitVec 12) (start : Seq) : Word := start ++ spare ++ 1#4

/-- A command word with its code and its other bits. -/
def commandWord (code : BitVec 4) (arg : BitVec 28) : Word := arg ++ code

/-! ### Times -/

/-- The bit rate is 3,000,000/(d + 1) from the 48 MHz link clock, sixteen samples in each bit
(R100). -/
def cyclesPerBit (l : LineSettings) : Nat := 16 * (l.divisor.toNat + 1)

/-- The bits in one character: start, eight data, parity if any, one or two stop (R100). -/
def bitsPerChar (l : LineSettings) : Nat :=
  1 + 8 + (if l.parity = .none then 0 else 1) + (if l.twoStopBits then 2 else 1)

/-- A character time (R100). -/
def charTime (l : LineSettings) : Nat := bitsPerChar l * cyclesPerBit l

/-! ### Characters and frames -/

/-- The number of ones in a byte. -/
def ones (b : Byte) : Nat :=
  (b.getLsbD 0).toNat + (b.getLsbD 1).toNat + (b.getLsbD 2).toNat + (b.getLsbD 3).toNat
    + (b.getLsbD 4).toNat + (b.getLsbD 5).toNat + (b.getLsbD 6).toNat + (b.getLsbD 7).toNat

/-- A sampled level read as a bit: inverted when the invert option is set (R100). -/
def readBit (l : LineSettings) (level : Bool) : Bool := level != l.invert

/-- The data byte of a character. -/
def charByte (l : LineSettings) (c : SampledChar) : Byte := if l.invert then ~~~c.data else c.data

/-- A parity bit that disagrees with the selected parity (R102). -/
def parityError (l : LineSettings) (c : SampledChar) : Bool :=
  let total := ones (charByte l c) + (readBit l c.parityHigh).toNat
  match l.parity with
  | .none => false
  | .even => total % 2 != 0
  | .odd => total % 2 != 1

/-- A stop bit sampled at space, any of the one or two selected (R102). -/
def framingError (l : LineSettings) (c : SampledChar) : Bool :=
  !readBit l c.stop1High || (l.twoStopBits && !readBit l c.stop2High)

/-- The last stop bit sampled at space: the line has not returned to mark (R102). -/
def lastStopSpace (l : LineSettings) (c : SampledChar) : Bool :=
  !readBit l (if l.twoStopBits then c.stop2High else c.stop1High)

/-- The bits of a character as sent, true for mark (R100): the start bit, the data least significant
first, the parity bit if any, the stop bits. -/
def charBits (l : LineSettings) (b : Byte) : List Bool :=
  [false, b.getLsbD 0, b.getLsbD 1, b.getLsbD 2, b.getLsbD 3, b.getLsbD 4, b.getLsbD 5, b.getLsbD 6,
    b.getLsbD 7]
    ++ (match l.parity with
      | .none => []
      | .even => [ones b % 2 == 1]
      | .odd => [ones b % 2 == 0])
    ++ if l.twoStopBits then [true, true] else [true]

/-- The bits of a frame: its characters back to back (R103). -/
def frameBits (l : LineSettings) (bytes : List Byte) : List Bool := bytes.flatMap (charBits l)

def byteSum (bs : List Byte) : Byte := bs.foldl (· + ·) 0#8

/-- A frame to the drive: its bytes and the check byte that makes their sum 0 modulo 256 (R104). -/
def withCheck (bs : List Byte) : List Byte := bs ++ [-(byteSum bs)]

def haltFrame (reason : Byte) : List Byte := withCheck [0x52#8, reason]
def goFrame : List Byte := withCheck [0x53#8]

/-- A SEG carries the copy record's 32 bytes in memory order (R189). -/
def segFrame (r : Record) : List Byte :=
  withCheck (0x51#8 :: (wordBytes r[0] ++ wordBytes r[1] ++ wordBytes r[2] ++ wordBytes r[3]
    ++ wordBytes r[4] ++ wordBytes r[5] ++ wordBytes r[6] ++ wordBytes r[7]))

/-- The good frame of the bytes received, by type and length (Table 6-2, R105). -/
def frameOf (bytes : List Byte) : Option DriveFrame :=
  match bytes with
  | [t, a, b, _] =>
    if t = 0xA1#8 then some (.acc (b ++ a)) else if t = 0xA2#8 then some (.done (b ++ a)) else none
  | [t, a, b, r, _] => if t = 0xA3#8 then some (.nak (b ++ a) r) else none
  | [t, c, _] => if t = 0xA4#8 then some (.flt c) else none
  | _ => none

/-- The frame passes every test of R105: no taint, a known type with its length, sum 0. The first
five bytes are kept, and no good frame is longer. -/
def examineFrame (f : RxFrame) : Option DriveFrame :=
  if f.tainted || f.count != f.kept.length || byteSum f.kept != 0#8 then none
  else frameOf f.kept

/-- The HALT reason of an entry into HELD: the hold reason value (R57). -/
def holdCode : HoldReason → Nat
  | .attach => 1
  | .operator => 2
  | .breakLine => 3
  | .stopLine => 4
  | .cleared => 5

/-- Fault code values (R53). -/
def faultCodeValue : FaultCode → Nat
  | .linkTimeout => 1
  | .driveRefused => 2
  | .driveFault _ => 3
  | .travel => 4
  | .memory => 5
  | .ringCheck => 6

/-! ### The boot bus (R183) -/

/-- A STOP: SDA rises while SCL is high (R183). -/
def isStopCondition (scl sda : Bool) (c : BusChange) : Bool := scl && c.scl && !sda && c.sda

/-- When the bus is first free, from levels that have stood since `since`: at a STOP, since both lines
are high at it, or when both lines have stayed high for 100 µs (R183). -/
def freeFrom (since : Nat) (scl sda : Bool) : List BusChange → Option Nat
  | [] => if scl && sda then some (since + Config.bootBusQuiet) else none
  | c :: rest =>
    if scl && sda && decide (since + Config.bootBusQuiet < c.after) then
      some (since + Config.bootBusQuiet)
    else if isStopCondition scl sda c then some c.after
    else freeFrom (if c.scl = scl ∧ c.sda = sda then since else c.after) c.scl c.sda rest

/-- The time after the entry into WAITING at which the bus is first free, if ever (R183). -/
def busFreeAfter (b : BusCourse) : Option Nat := freeFrom 0 b.scl b.sda b.changes

/-- The bus becomes free within 100 ms of the entry into WAITING (R183); at 100 ms it still does
(log 36). -/
def busFreeInTime (b : BusCourse) : Option Nat :=
  (busFreeAfter b).filter fun t => decide (t ≤ Config.bootBusWait)

/-- The seven-bit device address of the EEPROM, 0x50 (R183). -/
def bootDevice : BitVec 7 := 0x50#7

/-- A byte on the boot bus, most significant bit first, and the acknowledge bit of its receiver (R183). -/
def sendByte (b : Byte) : List BusAct :=
  [.send (b.getLsbD 7), .send (b.getLsbD 6), .send (b.getLsbD 5), .send (b.getLsbD 4),
    .send (b.getLsbD 3), .send (b.getLsbD 2), .send (b.getLsbD 1), .send (b.getLsbD 0), .awaitAck]

/-- A data byte from the device, and the loader's acknowledge or its absence (R183). -/
def receiveByte (last : Bool) : List BusAct :=
  List.replicate 8 .receive ++ [if last then .notAcknowledge else .acknowledge]

/-- An attempt (R183): START, the device address with the write bit, the word address 0x00; a repeated
START, the device address with the read bit; sixteen bytes, each acknowledged but the last; STOP. -/
def bootExchange : List BusAct :=
  [.start] ++ sendByte (bootDevice ++ 0#1) ++ sendByte 0x00#8
    ++ [.restart] ++ sendByte (bootDevice ++ 1#1)
    ++ (List.replicate 15 (receiveByte false)).flatten ++ receiveByte true ++ [.stop]

/-- What the loader drives on the two lines, each only low or released (R183): a START is a fall of SDA
while SCL is high, a STOP a rise of it, and a bit is held on SDA while SCL is high. A bit that the
device sends, and the acknowledge of the receiver, leave SDA released. -/
def BusAct.phases : BusAct → List BusDrive
  | .start => [⟨false, false⟩, ⟨false, true⟩, ⟨true, true⟩]
  | .restart => [⟨true, false⟩, ⟨false, false⟩, ⟨false, true⟩, ⟨true, true⟩]
  | .stop => [⟨true, true⟩, ⟨false, true⟩, ⟨false, false⟩]
  | .send bit => [⟨true, !bit⟩, ⟨false, !bit⟩, ⟨true, !bit⟩]
  | .awaitAck => [⟨true, false⟩, ⟨false, false⟩, ⟨true, false⟩]
  | .receive => [⟨true, false⟩, ⟨false, false⟩, ⟨true, false⟩]
  | .acknowledge => [⟨true, true⟩, ⟨false, true⟩, ⟨true, true⟩]
  | .notAcknowledge => [⟨true, false⟩, ⟨false, false⟩, ⟨true, false⟩]

/-! ### The boot record (Table 12-11, R185) -/

/-- The causes of BOOT_BAD (R185). -/
inductive BootCause where
  | arbitration
  | signature
  | check
  | align
  | overlap
  | addressNack
  | stretch
  | busBusy
  deriving DecidableEq, Repr

def bootCauseCode : BootCause → Word
  | .arbitration => 1#32
  | .signature => 2#32
  | .check => 3#32
  | .align => 4#32
  | .overlap => 5#32
  | .addressNack => 6#32
  | .stretch => 7#32
  | .busBusy => 8#32

/-- 1 MB × 2^w (R185). -/
def windowSpaceSize (code : Nat) : Nat := 1048576 * 2 ^ code

/-- Boot record bytes 0 to 3 as a little-endian word, zero for any byte not read (R185). -/
def bootFirstWord (got : List Byte) : Word :=
  wordOfBytes (got.getD 0 0#8) (got.getD 1 0#8) (got.getD 2 0#8) (got.getD 3 0#8)

/-- The regions of a boot record. -/
def bootRegions (b : Vector Byte 16) : Regions where
  page := wordOfBytes b[2] b[3] b[4] b[5]
  window := wordOfBytes b[6] b[7] b[8] b[9]
  sizeCode := b[10].toNat

/-- The first test of Table 11-1 that the record fails, if any. -/
def bootFailure (b : Vector Byte 16) : Option BootCause :=
  let r := bootRegions b
  if b[0] ≠ 0x4B#8 ∨ b[1] ≠ 0x36#8 then some .signature
  else if byteSum b.toList ≠ 0#8 then some .check
  else if !alignedTo r.page pageSize then some .align
  else if decide (10 < r.sizeCode) || !alignedTo r.window (windowSpaceSize r.sizeCode) then
    some .align
  else if blocksMeet r.page.toNat pageSize r.window.toNat (windowSpaceSize r.sizeCode) then
    some .overlap
  else none

/-- The control page base chosen by the straps (Table 11-2). -/
def strapPage (strapB strapA : Bool) : Word :=
  match strapB, strapA with
  | false, false => 0x0000F800#32
  | false, true => 0x000FF800#32
  | true, false => 0x00FFF800#32
  | true, true => 0x0FFFF800#32

/-- The strap defaults: window space at 0x4000_0000 of 256 MB (R185). -/
def strapRegions (strapB strapA : Bool) : Regions :=
  ⟨strapPage strapB strapA, 0x40000000#32, 8⟩

end Sys2Proof.Machine
end

