-- ==== Sys2Proof/Machine/Flags.lean ====
section
/-! DEFINITION. What the part shows: the status records (Tables 12-7 to 12-9), the marks and owed sets
of the status writer (R163), the pending bits (Table 9-3) and the output pins. -/

namespace Sys2Proof.Machine

/-! ### Pending bits (Table 9-3) -/

def eventBit (k : StationId) : Word := place 1 k.val
def commandDoneBit (k : StationId) : Word := place 1 (8 + k.val)
def jobDoneBit : Word := place 1 16
def jobChangeBit : Word := place 1 17
def errorLoggedBit : Word := place 1 18
def stopChangeBit : Word := place 1 19
def passCompleteBit : Word := place 1 20

/-- The positions that Table 9-3 names; the others are always zero (R166). -/
def namedBits : Word := 0x001F3F3F#32

/-! ### Codes of section 12.4 -/

def jobStateCode : JobState → Nat
  | .noJob => 0
  | .opened => 1
  | .closed => 2

def resultCode : Result → Nat
  | .ok => 0
  | .badState => 1
  | .badArg => 2
  | .noJob => 3
  | .noRing => 4
  | .stopActive => 5
  | .breakActive => 6
  | .haltPending => 7
  | .badCmd => 8

def feedCode : Feed → Nat
  | .off => 0
  | .live => 1
  | .detached => 2
  | .catchup => 3
  | .lost _ => 4

def lossCode : Feed → Nat
  | .lost .overwritten => 1
  | .lost .check => 2
  | .lost .memory => 3
  | .off => 0
  | .live => 0
  | .detached => 0
  | .catchup => 0

def driveCode : Drive → Nat
  | .stopped => 0
  | .running => 1
  | .held _ => 2
  | .fault _ => 3

/-- The hold reason, NONE outside HELD (R53). -/
def holdReasonCode : Drive → Nat
  | .held r => holdCode r
  | .stopped => 0
  | .running => 0
  | .fault _ => 0

/-- The fault code, NONE outside FAULT (R53). -/
def faultCodeField : Drive → Nat
  | .fault c => faultCodeValue c
  | .stopped => 0
  | .running => 0
  | .held _ => 0

/-- The drive's own code byte, with DRIVE_FAULT alone (R53). -/
def driveCodeField : Drive → Nat
  | .fault (.driveFault c) => c.toNat
  | .fault .linkTimeout => 0
  | .fault .driveRefused => 0
  | .fault .travel => 0
  | .fault .memory => 0
  | .fault .ringCheck => 0
  | .stopped => 0
  | .running => 0
  | .held _ => 0

def errorKindCode : ErrorKind → Nat
  | .unmapped => 1
  | .overlap => 2
  | .badDesc => 3
  | .access => 4
  | .burstCross => 5
  | .partialWord => 6
  | .noJob => 7
  | .rewrite => 8
  | .gap => 9
  | .badCheck => 10
  | .badSeq => 11
  | .badFormat => 12
  | .statusWrite => 13
  | .configLocked => 14
  | .memFault => 15
  | .bootBad => 16

def originCode : Origin → Nat
  | .processor => 1
  | .table => 2
  | .command => 3
  | .journal => 4
  | .post => 5
  | .replay => 6
  | .drain => 7
  | .status => 8
  | .boot => 9

/-! ### The records -/

/-- A station's command slot is busy (R161). -/
def stationBusy (st : Station) : Bool :=
  match st.progress with
  | .idle => false
  | .attaching _ _ => true
  | .releasing => true

/-- The job slot is busy (R161). -/
def jobBusy (j : Job) : Bool := j.opening.isSome

/-- The interrupt enable mask stands in the job shadow (R168). -/
def enableMask (s : State) : Word := s.shadows.job[1]

/-- The summary record (section 12.4). -/
def summaryRecord (s : State) : Record :=
  #v[s.writer.pending, enableMask s, 0#32, 0#32, 0#32, 0#32, 0#32, 0#32]

/-- The word of one gate entry, zero beyond the count (Table 12-7, R98). -/
def gateEntryWord : Option GateEntry → Word
  | some e => e.seq.setWidth 32 ||| place e.doneSet.toNat 16
  | none => 0#32

/-- Words 0 to 7 of the job status record (Table 12-7). The stop line is asserted when low. -/
def jobStatusLower (s : State) : Record :=
  let j := s.job
  let latched :=
    match j.journal with
    | some d => place d.toNat 16 ||| place 1 23
    | none => 0#32
  #v[place (jobStateCode j.state) 0 ||| placeFlag (!s.stop.qualified) 4 ||| placeFlag (jobBusy j) 8
       ||| place j.lastCommand.toNat 12 ||| place (resultCode j.lastResult) 16
       ||| place j.mask.toNat 24,
     j.start.setWidth 32 ||| place j.frontier.toNat 16,
     place j.slots 0 ||| latched,
     j.counter.setWidth 32 ||| place j.searches.toNat 16,
     place s.gate.entries.length 0 ||| place s.gate.members.toNat 8,
     gateEntryWord s.gate.entries[0]?,
     gateEntryWord s.gate.entries[1]?,
     gateEntryWord s.gate.entries[2]?]

/-- Words 8 to 15 of the job status record (Table 12-7). -/
def jobStatusUpper (s : State) : Record :=
  #v[gateEntryWord s.gate.entries[3]?, 0#32, 0#32, 0#32, 0#32, 0#32, 0#32, 0#32]

/-- Words 0 to 7 of a station status record (Table 12-8); words 8 to 15 are zero. -/
def stationStatusLower (st : Station) (brk : Monitor) : Record :=
  let c := st.counters
  #v[place (feedCode st.feed) 0 ||| place (lossCode st.feed) 4 ||| place (driveCode st.drive) 8
       ||| place (holdReasonCode st.drive) 12 ||| place (faultCodeField st.drive) 16
       ||| place (driveCodeField st.drive) 24,
     place st.lastCommand.toNat 0 ||| place (resultCode st.lastResult) 4
       ||| placeFlag (stationBusy st) 8 ||| placeFlag brk.qualified 12,
     st.post.setWidth 32 ||| place st.send.toNat 16,
     st.done.setWidth 32 ||| place st.capacity 16,
     c.linkErrors.setWidth 32 ||| place c.overruns.toNat 16,
     c.stale.setWidth 32 ||| place c.retries.toNat 16,
     c.clamps.setWidth 32 ||| place c.breaks.toNat 16,
     0#32]

/-- The error log record (Table 12-9); an empty log is all zero. -/
def errorLogRecord : Option LogEntry → Record
  | none => zeroRecord
  | some e =>
    #v[place (errorKindCode e.kind) 0 ||| place (originCode e.origin) 8 ||| placeFlag e.write 12
         ||| place (match e.station with | some k => k.val | none => 7) 16
         ||| place e.overflow.toNat 24,
       e.addr, e.data, 0#32, 0#32, 0#32, 0#32, 0#32]

/-- The lower, or only, half of a status record as it stands (R163). -/
def recordLower (s : State) : RecordId → Record
  | .summary => summaryRecord s
  | .errorLog => errorLogRecord s.log
  | .job => jobStatusLower s
  | .station k => stationStatusLower s.stations[k] s.breaks[k]

/-- The upper half of a 64-byte status record (R164); the 32-byte records have none. -/
def recordUpper (s : State) : RecordId → Option Record
  | .summary => none
  | .errorLog => none
  | .job => some (jobStatusUpper s)
  | .station _ => some zeroRecord

/-- The offset of a status record in the control page (Table 12-4). -/
def recordOffset : RecordId → Nat
  | .summary => 0x400
  | .job => 0x420
  | .station k => 0x460 + 0x40 * k.val
  | .errorLog => 0x5E0

/-! ### Marks and owed sets -/

def Marks.get (m : Marks) : RecordId → Bool
  | .summary => m.summary
  | .errorLog => m.errorLog
  | .job => m.job
  | .station k => inSet k m.stations

def Marks.set (m : Marks) (r : RecordId) (b : Bool) : Marks :=
  match r with
  | .summary => { m with summary := b }
  | .errorLog => { m with errorLog := b }
  | .job => { m with job := b }
  | .station k =>
    { m with stations := if b then m.stations ||| stationBit k else m.stations &&& ~~~stationBit k }

def Owed.get (o : Owed) : RecordId → Word
  | .summary => o.summary
  | .errorLog => o.errorLog
  | .job => o.job
  | .station k => o.stations[k]

def Owed.set (o : Owed) (r : RecordId) (w : Word) : Owed :=
  match r with
  | .summary => { o with summary := w }
  | .errorLog => { o with errorLog := w }
  | .job => { o with job := w }
  | .station k => { o with stations := o.stations.set k w }

/-- The cycle of the status writer: error log, job status, station status 0 to 5 (R163). -/
def cycleRecord (p : Fin 8) : RecordId :=
  match p.val with
  | 0 => .errorLog
  | 1 => .job
  | 2 => .station 0
  | 3 => .station 1
  | 4 => .station 2
  | 5 => .station 3
  | 6 => .station 4
  | _ => .station 5

def recordIds : List RecordId :=
  [.summary, .errorLog, .job, .station 0, .station 1, .station 2, .station 3, .station 4, .station 5]

def anyMarked (m : Marks) : Bool := m.summary || m.errorLog || m.job || m.stations != 0#6

/-- A status record's contents differ between two states. -/
def recordChanged (before after : State) (r : RecordId) : Bool :=
  recordLower before r != recordLower after r || recordUpper before r != recordUpper after r

/-- The marks with every record marked whose contents differ between the two states. -/
def changedMarks (before after : State) : Marks :=
  recordIds.foldl (fun m r => if recordChanged before after r then m.set r true else m)
    after.writer.marks

/-- A status record is marked whenever a field it carries changes (R163, R46, R72, R98): the end of
every step compares the records' contents with those before it (log 19). -/
def report (before after : State) : State :=
  { after with writer := { after.writer with marks := changedMarks before after } }

/-! ### Output pins -/

/-- IRQ_N is asserted exactly while some pending bit is set whose enable bit is set (R168). -/
def State.irqAsserted (s : State) : Bool := s.writer.pending &&& enableMask s != 0#32

/-- ACCEPTk is asserted while the receive queue holds fewer than 2 frames (R106). -/
def State.acceptHigh (s : State) (k : StationId) : Bool := decide (s.links[k].queue.length < 2)

/-- What the boot loader drives on SCL and SDA, phase by phase, from its latest row on (R183, R184); both
lines are released before and after. -/
def State.bootLines (s : State) : List BusDrive := s.boot.drives.flatMap BusAct.phases

/-- The level of TXDk (R100, R103): the bit of the frame in transmission that is due at this time, mark
when none is, and every bit inverted under the invert option. -/
def State.txdHigh (s : State) (k : StationId) : Bool :=
  let l := s.links[k]
  let bit := match l.tx with
    | some t => (frameBits l.line t.bytes).getD ((s.now - t.start) / cyclesPerBit l.line) true
    | none => true
  bit != l.line.invert

end Sys2Proof.Machine
end

