-- ==== Sys2Proof/Machine/Transform.lean ====
section
/-! DEFINITION. The copy transform (R7 to R18): a master record and a station's settings give a copy, or
`none` for a travel fault. Values are computed exactly as integers and narrowed at the end. -/

namespace Sys2Proof.Machine

/-- s(v) = v × p / q to the nearest integer, an exact half away from zero (R8). -/
def scaled (p q : Nat) (v : Int) : Int :=
  let magnitude : Nat := (2 * v.natAbs * p + q) / (2 * q)
  if v < 0 then -(magnitude : Int) else magnitude

/-- The scale pair is valid when p and q each lie in 1..4096 (R9). -/
def scaleValid (p q : Nat) : Bool := decide (1 ≤ p ∧ p ≤ 4096 ∧ 1 ≤ q ∧ q ≤ 4096)

/-- The signed 32-bit range (R15). -/
def inRange32 (v : Int) : Bool := decide (-2147483648 ≤ v ∧ v ≤ 2147483647)

def signOf (mirrored : Bool) : Int := if mirrored then -1 else 1

/-- R12: the arc kinds are exchanged when exactly one of MX and MY is set. -/
def mirroredKind (k : Kind) (mx my : Bool) : Kind :=
  if mx != my then
    match k with
    | .line => .line
    | .arcCw => .arcCcw
    | .arcCcw => .arcCw
    | .dwell => .dwell
    | .tool => .tool
    | .mark => .mark
    | .endJob => .endJob
  else k

/-- R13: the copy's turntable angle, in 0..359999. -/
def copyAngle (b : Block) (a : Nat) : Int :=
  (if cbMirrorA b then cbOa b - (a : Int) else cbOa b + (a : Int)) % 360000

/-- R14: the copy's feed and its FEEDCLAMP flag. -/
def copyFeed (p q : Nat) (feed : Nat) : Nat × Bool :=
  let f := (scaled p q feed).toNat
  if f < 1 then (1, true) else if 65535 < f then (65535, true) else (f, false)

/-- Word 0 of a copy (Table 12-2): seq, kind, tool, SYNC, CLAMPED, FEEDCLAMP, then unused bits. -/
def copyWord0 (seq : Seq) (kind tool : BitVec 4) (sync clamped feedClamp : Bool) : Word :=
  0#5 ++ BitVec.ofBool feedClamp ++ BitVec.ofBool clamped ++ BitVec.ofBool sync ++ tool
    ++ kind ++ seq

/-- The words of a copy with its check word computed afresh; a bit that carries no field is zero
(R18, R190). -/
def buildCopy (master : Record) (kind : BitVec 4) (clamped feedClamp : Bool) (x y z ai j : Word)
    (feed : Nat) : Record :=
  let w0 := copyWord0 (recSeq master) kind (recTool master) (recSync master) clamped feedClamp
  let w6 := recSpeed master ++ BitVec.ofNat 16 feed
  #v[w0, x, y, z, ai, j, w6, checkWord w0 x y z ai j w6]

/-- The exact values of a LINE or arc copy before the floor raise (R10, R11). -/
structure Motion where
  x : Int
  y : Int
  z : Int
  i : Int
  j : Int

/-- R10 and R11, exactly. -/
def motionValues (b : Block) (master : Record) : Motion where
  x := cbOx b + signOf (cbMirrorX b) * scaled (cbScaleP b) (cbScaleQ b) master[1].toInt
  y := cbOy b + signOf (cbMirrorY b) * scaled (cbScaleP b) (cbScaleQ b) master[2].toInt
  z := cbOz b + scaled (cbScaleP b) (cbScaleQ b) master[3].toInt + cbTlo b
  i := signOf (cbMirrorX b) * scaled (cbScaleP b) (cbScaleQ b) master[4].toInt
  j := signOf (cbMirrorY b) * scaled (cbScaleP b) (cbScaleQ b) master[5].toInt

/-- The values that R15 lists for every motion record. -/
def rangeTested (b : Block) (master : Record) : List Int :=
  let s := scaled (cbScaleP b) (cbScaleQ b)
  let m := motionValues b master
  [s master[1].toInt, s master[2].toInt,
   signOf (cbMirrorY b) * s master[2].toInt, signOf (cbMirrorX b) * s master[1].toInt,
   m.x, m.y, s master[3].toInt, cbOz b + s master[3].toInt, m.z]

/-- The values that R15 lists for an arc besides. -/
def arcTested (b : Block) (master : Record) : List Int :=
  let s := scaled (cbScaleP b) (cbScaleQ b)
  let m := motionValues b master
  [s master[4].toInt, s master[5].toInt, m.i, m.j]

/-- The values of R10 and R11, or `none` when one that R15 lists leaves the signed 32-bit range. -/
def motionOf (b : Block) (arc : Bool) (master : Record) : Option Motion :=
  if (rangeTested b master).all inRange32 && (!arc || (arcTested b master).all inRange32) then
    some (motionValues b master)
  else none

/-- R16: the copy's endpoint lies within the station's travel limits. -/
def withinTravel (b : Block) (x y z : Int) : Bool :=
  decide (cbXmin b ≤ x ∧ x ≤ cbXmax b ∧ cbYmin b ≤ y ∧ y ≤ cbYmax b ∧ z ≤ cbZmax b)

/-- The copy of a LINE or arc record, or a travel fault (R9 to R16). -/
def motionCopy (b : Block) (kind : Kind) (master : Record) : Option Record :=
  if scaleValid (cbScaleP b) (cbScaleQ b) then
    match motionOf b (kind != .line) master with
    | none => none
    | some m =>
      let clamped := decide (m.z < cbZfloor b)
      let z := if clamped then cbZfloor b else m.z
      if withinTravel b m.x m.y z then
        let feed := copyFeed (cbScaleP b) (cbScaleQ b) (recFeed master)
        let ai := if kind = .line then copyAngle b master[4].toNat else m.i
        let j := if kind = .line then 0 else m.j
        some (buildCopy master (kindCode (mirroredKind kind (cbMirrorX b) (cbMirrorY b))) clamped
          feed.2 (BitVec.ofInt 32 m.x) (BitVec.ofInt 32 m.y) (BitVec.ofInt 32 z) (BitVec.ofInt 32 ai)
          (BitVec.ofInt 32 j) feed.1)
      else none
  else none

/-- The copy of a DWELL, TOOL, MARK or END record (R17). -/
def plainCopy (kind : Kind) (master : Record) : Record :=
  buildCopy master (kindCode kind) false false 0#32 0#32 0#32 0#32 0#32 (recFeed master)

/-- The copy of a record of a kind of 7 to 15 that a replay turn reads back (log 34): the master's kind
(R12), seq, tool, SYNC and speed (R14, R18), the words that hold a, i and j zero (R13, R190), the check
word computed afresh (R18); what no rule states is the free value's. -/
def unknownCopy (master : Record) (f : Config.FreeCopy) : Record :=
  buildCopy master (master[0].extractLsb' 16 4) f.clamped f.feedClamp f.x f.y f.z 0#32 0#32 f.feed.toNat

/-- The station's copy of a master record under the settings of its shadow; `none` is a travel
fault (R7). A record whose kind is not valid passes no commit (R6). -/
def transform (b : Block) (master : Record) : Option Record :=
  match recKind master with
  | none => (Config.copyOfUnknownKind b master).map (unknownCopy master)
  | some k => if isMotion k then motionCopy b k master else some (plainCopy k master)

/-- A copy that adds one to the clamp counter (R18). -/
def copyClamped (copy : Record) : Bool := recClamped copy || recFeedClamp copy

end Sys2Proof.Machine
end

