-- ==== Sys2Proof/Machine/Ops.lean ====
section
/-! DEFINITION. The named operations over the state that the meanings share: updates of one part, marks
and owed bits, the error log, the sync gate, the drive and feed entries, drain reads, the processor's
answer, and the outcome of a step. -/

namespace Sys2Proof.Machine

/-! ### Updates of one part -/

def State.setStation (s : State) (k : StationId) (st : Station) : State :=
  { s with stations := s.stations.set k st }

def State.setLink (s : State) (k : StationId) (l : Link) : State :=
  { s with links := s.links.set k l }

def State.setBreak (s : State) (k : StationId) (m : Monitor) : State :=
  { s with breaks := s.breaks.set k m }

def State.setCounters (s : State) (k : StationId) (c : Counters) : State :=
  s.setStation k { s.stations[k] with counters := c }

def State.setJob (s : State) (j : Job) : State := { s with job := j }

def State.setGate (s : State) (g : Gate) : State := { s with gate := g }

def State.setPort (s : State) (p : Port) : State := { s with port := p }

def State.setTurn (s : State) (t : Option ReplayTurn) : State :=
  { s with replay := { s.replay with turn := t } }

def State.setWriter (s : State) (w : Writer) : State := { s with writer := w }

/-- Let time pass until `t`, if it has not come yet (log 3). -/
def State.reach (s : State) (t : Nat) : State := { s with now := max s.now t }

/-! ### Marks and owed bits (R163, R165) -/

def State.mark (s : State) (r : RecordId) : State :=
  s.setWriter { s.writer with marks := s.writer.marks.set r true }

/-- Pending bits owed to a record, set when it has been written (R165). -/
def State.owe (s : State) (r : RecordId) (bits : Word) : State :=
  s.setWriter { s.writer with owed := s.writer.owed.set r (s.writer.owed.get r ||| bits) }

/-- The station event bit is owed to the station status record (R72). -/
def State.oweEvent (s : State) (k : StationId) : State := s.owe (.station k) (eventBit k)

/-! ### The error log (R169) -/

/-- An error fills an empty log and owes bit 18, or adds one to the overflow count of a full one,
which stops at 255; either marks the record (R169, log 20). -/
def State.logError (s : State) (kind : ErrorKind) (origin : Origin) (write : Bool) (addr data : Word)
    (station : Option StationId) : State :=
  match s.log with
  | none =>
    ({ s with log := some ⟨kind, origin, write, addr, data, station, 0#8⟩ }.mark .errorLog).owe
      .errorLog errorLoggedBit
  | some e => { s with log := some { e with overflow := satIncByte e.overflow } }.mark .errorLog

/-! ### Command completion (R162) -/

/-- A station command completes: code and result recorded, slot idle, record marked, bit owed. -/
def State.completeStation (s : State) (k : StationId) (code : BitVec 4) (r : Result) : State :=
  ((s.setStation k
      { s.stations[k] with lastCommand := code, lastResult := r, progress := .idle }).mark
    (.station k)).owe (.station k) (commandDoneBit k)

/-- A job command completes. -/
def State.completeJob (s : State) (code : BitVec 4) (r : Result) : State :=
  ((s.setJob { s.job with lastCommand := code, lastResult := r, opening := none }).mark .job).owe
    .job jobDoneBit

/-! ### The sync gate (chapter 5) -/

/-- Every current member is in the entry's done-set. -/
def entryComplete (members : StationSet) (e : GateEntry) : Bool := members &&& ~~~e.doneSet == 0#6

/-- The entries left when the complete entries at the front have been removed (R94). -/
def releaseEntries (members : StationSet) : List GateEntry → List GateEntry
  | [] => []
  | e :: es => if entryComplete members e then releaseEntries members es else e :: es

/-- The release test (R94). -/
def Gate.release (g : Gate) : Gate := { g with entries := releaseEntries g.members g.entries }

/-- Credit a station with every entry before its done pointer (R90). -/
def creditEntry (k : StationId) (done : Seq) (e : GateEntry) : GateEntry :=
  if seqBefore e.seq done then { e with doneSet := e.doneSet ||| stationBit k } else e

/-- A station joins: added to the members, credited, release test (R90). -/
def Gate.join (g : Gate) (k : StationId) (done : Seq) : Gate :=
  Gate.release ⟨g.entries.map (creditEntry k done), g.members ||| stationBit k⟩

def uncreditEntry (k : StationId) (e : GateEntry) : GateEntry :=
  { e with doneSet := e.doneSet &&& ~~~stationBit k }

/-- A station leaves: removed from the members and every done-set, release test (R91). -/
def Gate.leave (g : Gate) (k : StationId) : Gate :=
  Gate.release ⟨g.entries.map (uncreditEntry k), g.members &&& ~~~stationBit k⟩

/-- The entry for a completed sequence, if any, takes the station into its done-set. -/
def completeEntry (k : StationId) (s : Seq) (e : GateEntry) : GateEntry :=
  if e.seq = s then { e with doneSet := e.doneSet ||| stationBit k } else e

/-- A station has completed sequence `s` (R92). -/
def Gate.completed (g : Gate) (k : StationId) (s : Seq) : Gate :=
  if inSet k g.members && g.entries.any (fun e => e.seq == s) then
    Gate.release { g with entries := g.entries.map (completeEntry k s) }
  else g

/-- The members whose done pointer is after g (R93). -/
def membersPast (stations : Vector Station 6) (members : StationSet) (g : Seq) : StationSet :=
  stationOrder.foldl
    (fun m k => if inSet k members && seqBefore g stations[k].done then m ||| stationBit k else m) 0#6

/-- The commit of a SYNC record appends an entry for it (R93). -/
def Gate.insert (g : Gate) (stations : Vector Station 6) (seq : Seq) : Gate :=
  Gate.release { g with entries := g.entries ++ [⟨seq, membersPast stations g.members seq⟩] }

/-- The sending limit: a copy of s may be sent unless s is after the oldest entry (R95). -/
def Gate.allows (g : Gate) (s : Seq) : Bool :=
  match g.entries with
  | [] => true
  | e :: _ => !seqBefore e.seq s

/-- A station is a member when its feed is LIVE or CATCHUP and its drive is not in FAULT (R89). -/
def isMember (st : Station) : Bool :=
  match st.feed, st.drive with
  | .live, .fault _ => false
  | .catchup, .fault _ => false
  | .live, _ => true
  | .catchup, _ => true
  | .off, _ => false
  | .detached, _ => false
  | .lost _, _ => false

/-- A station that has changed its feed or drive state tells the gate whether it has become a
member, has stopped being one, or is unchanged (R89). -/
def State.tellGate (s : State) (k : StationId) : State :=
  let st := s.stations[k]
  if isMember st && !inSet k s.gate.members then s.setGate (s.gate.join k st.done)
  else if !isMember st && inSet k s.gate.members then s.setGate (s.gate.leave k)
  else s

/-! ### Entering HELD and FAULT (R54 to R57) -/

def DrainRead.markRead (d : DrainRead) : DrainRead := { d with marked := true }

def Tx.void (t : Tx) : Tx :=
  match t.kind with
  | .seg q _ => { t with kind := .seg q true }
  | .resend q _ => { t with kind := .resend q true }
  | .halt => t
  | .go => t

/-- The link's part of a rewind (R56): the staging buffer emptied, the outstanding SEG cleared, the
timer stopped, the retry count and full wait cleared, a drain read marked, a SEG on the wire void. -/
def Link.rewind (l : Link) : Link :=
  { l with
    staging := .empty
    outstanding := none
    ackTimer := none
    retry := 0
    fullWait := false
    drain := l.drain.map DrainRead.markRead
    tx := l.tx.map Tx.void }

/-- The control frame of an entry (R57): an unbegun GO is withdrawn and nothing is queued;
otherwise the HALT of the entry, if it has one, is queued. -/
def Link.placeHalt (l : Link) (reason : Option Byte) : Link :=
  match l.slot, reason with
  | .go, _ => { l with slot := .empty }
  | .empty, some r => { l with slot := .halt r }
  | .halt _, some r => { l with slot := .halt r }
  | .empty, none => l
  | .halt _, none => l

/-- An entry into HELD or FAULT: rewind, control frame, the new drive state, and the gate told. -/
def State.enterDrive (s : State) (k : StationId) (d : Drive) (halt : Option Byte) : State :=
  let st := s.stations[k]
  ((s.setLink k (s.links[k].rewind.placeHalt halt)).setStation k
    { st with drive := d, send := st.done }).tellGate k

/-- The drive entries that owe the station event bit: HELD with BREAK, STOP or CLEARED (R72). -/
def holdOwesEvent : HoldReason → Bool
  | .breakLine => true
  | .stopLine => true
  | .cleared => true
  | .attach => false
  | .operator => false

/-- A request to enter HELD moves a RUNNING drive alone (R54). -/
def State.requestHeld (s : State) (k : StationId) (r : HoldReason) : State :=
  match s.stations[k].drive with
  | .running =>
    let t := s.enterDrive k (.held r) (some (BitVec.ofNat 8 (holdCode r)))
    if holdOwesEvent r then t.oweEvent k else t
  | .stopped => s
  | .held _ => s
  | .fault _ => s

/-- The HALT reason of an entry into FAULT from RUNNING: 16 plus the fault code, and none for
DRIVE_FAULT, where the drive has stopped itself (R57). -/
def faultHalt : FaultCode → Option Byte
  | .driveFault _ => none
  | c => some (BitVec.ofNat 8 (16 + faultCodeValue c))

/-- A request to enter FAULT moves a RUNNING or HELD drive; in FAULT the first cause is kept (R55). -/
def State.requestFault (s : State) (k : StationId) (c : FaultCode) : State :=
  match s.stations[k].drive with
  | .running => (s.enterDrive k (.fault c) (faultHalt c)).oweEvent k
  | .held _ => (s.enterDrive k (.fault c) none).oweEvent k
  | .stopped => s
  | .fault _ => s

/-! ### Leaving the live work -/

/-- The port is carrying this requester's transaction. -/
def inFlightFor (s : State) (r : Requester) : Bool :=
  match s.port.inFlight with
  | some f => f.who == r
  | none => false

/-- A turn for station k whose read has not been answered is overtaken: withdrawn before the read's
grant, marked after it (R79). -/
def State.overtake (s : State) (k : StationId) : State :=
  match s.replay.turn with
  | some t =>
    if t.station = k ∧ t.copy = none then
      if inFlightFor s .replay then s.setTurn (some { t with marked := true }) else s.setTurn none
    else s
  | none => s

/-- The feed becomes LOST from DETACHED or CATCHUP, and stays what it is otherwise (R37, R51, R84). -/
def State.loseFeed (s : State) (k : StationId) (r : LossReason) : State :=
  match s.stations[k].feed with
  | .detached => ((s.setStation k { s.stations[k] with feed := .lost r }).tellGate k).oweEvent k
  | .catchup =>
    (((s.setStation k { s.stations[k] with feed := .lost r }).overtake k).tellGate k).oweEvent k
  | .off => s
  | .live => s
  | .lost _ => s

/-- The feed becomes DETACHED from LIVE or CATCHUP, post unchanged (R38, R40, R64, R82). -/
def State.detachFeed (s : State) (k : StationId) : State :=
  match s.stations[k].feed with
  | .live => ((s.setStation k { s.stations[k] with feed := .detached }).tellGate k).oweEvent k
  | .catchup =>
    (((s.setStation k { s.stations[k] with feed := .detached }).overtake k).tellGate k).oweEvent k
  | .off => s
  | .detached => s
  | .lost _ => s

/-- The replay engine's join: a CATCHUP station level with the frontier becomes LIVE when no commit
is in flight (R85, R86). -/
def State.joinLive (s : State) (k : StationId) : State :=
  if s.stations[k].feed = .catchup ∧ s.stations[k].post = s.job.frontier ∧ s.job.inFlight = false then
    (s.setStation k { s.stations[k] with feed := .live }).oweEvent k
  else s

/-! ### Rings and drain reads -/

/-- post − done (R49). -/
def occupancy (st : Station) : Nat := seqDist st.done st.post

def ringFull (st : Station) : Bool := occupancy st == st.capacity

/-- The address of the ring slot of s (R48). -/
def ringSlotAddr (st : Station) (s : Seq) : Word := slotAddr st.ringBase (slotOf s st.capacity)

/-- The staging condition of R111. -/
def drainDue (st : Station) (l : Link) : Bool :=
  st.drive != .stopped && seqBefore st.send st.post && l.staging == .empty && l.drain.isNone

/-- Start a drain read of slot send mod C when the condition of R111 holds. -/
def State.weighDrain (s : State) (k : StationId) : State :=
  if drainDue s.stations[k] s.links[k] then
    s.setLink k { s.links[k] with
      drain := some ⟨s.stations[k].send, ringSlotAddr s.stations[k] s.stations[k].send, false⟩ }
  else s

/-! ### Station counters (R71) -/

def State.countLinkError (s : State) (k : StationId) : State :=
  let c := s.stations[k].counters
  s.setCounters k { c with linkErrors := satInc c.linkErrors }

def State.countOverrun (s : State) (k : StationId) : State :=
  let c := s.stations[k].counters
  s.setCounters k { c with overruns := satInc c.overruns }

def State.countStale (s : State) (k : StationId) : State :=
  let c := s.stations[k].counters
  s.setCounters k { c with stale := satInc c.stale }

def State.countRetry (s : State) (k : StationId) : State :=
  let c := s.stations[k].counters
  s.setCounters k { c with retries := satInc c.retries }

def State.countBreak (s : State) (k : StationId) : State :=
  let c := s.stations[k].counters
  s.setCounters k { c with breaks := satInc c.breaks }

/-- A copy with CLAMPED or FEEDCLAMP set has been written into the ring (R18). -/
def State.countClamp (s : State) (k : StationId) (copy : Record) : State :=
  let c := s.stations[k].counters
  if copyClamped copy then s.setCounters k { c with clamps := satInc c.clamps } else s

/-- The frames in the receive queue are taken and discarded as stale, at the completion of an ATTACH
or RELEASE (R107). -/
def State.discardQueue (s : State) (k : StationId) : State :=
  let c := s.stations[k].counters
  (s.setCounters k { c with stale := s.links[k].queue.foldl (fun n _ => satInc n) c.stale }).setLink k
    { s.links[k] with queue := [] }

/-! ### The processor's answer (R138) -/

/-- The port gives its answer and is free for another transaction. -/
def State.answer (s : State) (a : ProcAnswer) : State := { s with proc := ⟨none, some a⟩ }

/-- Work begins on the transaction's behalf, and the processor is held. -/
def State.startWork (s : State) (t : ProcTxn) (w : TransitWork) : State :=
  { s with proc := ⟨some ⟨t, w⟩, none⟩ }

def ProcTxn.addr : ProcTxn → WordAddr
  | .read a _ => a
  | .write t => t.addr

def ProcTxn.isWrite : ProcTxn → Bool
  | .read _ _ => false
  | .write _ => true

/-- The number of words of a transaction. -/
def ProcTxn.count : ProcTxn → Nat
  | .read _ more => more.val + 1
  | .write t => (txnWords t).length

/-- The first data word of a write, zero for a read (R170). -/
def ProcTxn.firstData : ProcTxn → Word
  | .read _ _ => 0#32
  | .write t => t.first.data

/-- Log an error of origin PROCESSOR with the transaction's address and first data word (R139,
R170). -/
def State.logProc (s : State) (kind : ErrorKind) (t : ProcTxn) : State :=
  s.logError kind .processor t.isWrite (byteAddr t.addr) t.firstData none

/-- The transaction is refused: logged, and answered ERROR (R139). -/
def State.refuse (s : State) (kind : ErrorKind) (t : ProcTxn) : State :=
  (s.logProc kind t).answer (.error kind)

/-- The address of the control page. -/
def pageBase (s : State) : Word :=
  match s.boot.latched with
  | some r => r.page
  | none => 0#32

/-- The address of a descriptor (12 section 12.2). -/
def descAddr (s : State) (index : Nat) : Word := pageBase s + BitVec.ofNat 32 (16 * index)

/-! ### Standing requests (R174, Table 10-2) -/

/-- The STATUS request: a write of the pass is due, or some record is marked once the pass has
ended, and no status write is in flight (R163, R186, R187). -/
def statusStands (s : State) : Bool :=
  s.writer.write.isNone && (s.boot.pass.isSome || (s.taking && anyMarked s.writer.marks))

def attachStands (st : Station) : Bool :=
  match st.progress with
  | .attaching _ _ => true
  | .idle => false
  | .releasing => false

/-- A turn asks for its journal read; its ring write is granted at once and never stands. -/
def replayStands (s : State) : Bool :=
  match s.replay.turn with
  | some t => t.copy.isNone
  | none => false

/-- A request of this requester stands (R174). -/
def standing (s : State) (r : Requester) : Bool :=
  !inFlightFor s r &&
    match r with
    | .transit => s.proc.current.isSome
    | .commandJob => s.job.opening.isSome
    | .commandStation k => attachStands s.stations[k]
    | .status => statusStands s
    | .drain k => s.links[k].drain.isSome
    | .replay => replayStands s

/-- The port is free when no transaction is in flight and no held sequence reserves it (R175). -/
def portFree (s : State) : Bool := s.port.inFlight.isNone && s.port.hold.isNone

/-! ### The memory port's answer -/

/-- The transaction in flight has been answered and leaves the port; a hold ends (R177, R178). -/
def State.portAnswered (s : State) : State :=
  s.setPort { s.port with inFlight := none, hold := none }

/-! ### Outcomes -/

/-- What an event does, with the marks its changes make. While PORST_N is asserted every block holds
its power-on values, so the event changes nothing (R181, log 30). -/
def State.act (s : State) (f : State → State) : State := if s.porst then s else report s (f s)

/-- A command's outcome: the block always goes on. -/
def goOn (s : State) : Host.Outcome State Fault Refusal := .next s

/-- The port after an answer that took the block from `s` to `t`: where the answer has left it free, the
requests in `late` that the answer's own work has made come after the next grant (R175, log 29). -/
def State.deferred (t : State) (late : List Requester) (s : State) : State :=
  t.setPort { t.port with
    late := t.port.late ++ late.filter fun r => portFree t && standing t r && !standing s r }

/-- The outcome of an answer row: the answer to a transaction that a reset has abandoned is discarded
(R180, log 31). -/
def State.actAnswer {α : Type} (s : State) (f : α → State → State) :
    Arrived α → Host.Outcome State Fault Refusal
  | .current late ans => goOn ((s.act (f ans)).deferred late s)
  | .abandoned => goOn s

end Sys2Proof.Machine
end

