-- ==== Sys2Proof/Machine/Inputs.lean ====
section
/-! DEFINITION. Break and stop inputs (chapter 7): the monitors, break edges, and the six rows of
their events. A level is true for high. -/

namespace Sys2Proof.Machine

/-- A raw level: moving away from the qualified level starts the stability timer, returning to it
clears the timer (R129). -/
def Monitor.sense (m : Monitor) (level : Bool) (now : Nat) : Monitor :=
  if level = m.qualified then { m with raw := level, timer := none }
  else { m with raw := level, timer := some (m.timer.getD now) }

/-- The qualified level takes the raw level; the timer is stopped and cleared (R129). -/
def Monitor.qualify (m : Monitor) : Monitor := { m with qualified := m.raw, timer := none }

/-- A change to `level` is a break edge under the polarity (R131). -/
def isBreakEdge (p : Polarity) (level : Bool) : Bool :=
  match p with
  | .rising => level
  | .falling => !level
  | .both => true

/-- The break line stands at its active level (R133). -/
def breakActive (p : Polarity) (m : Monitor) : Bool :=
  match p with
  | .rising => m.qualified
  | .falling => !m.qualified
  | .both => false

/-- A break edge: counted, the record marked, the station event owed, the drive asked to enter HELD
with reason BREAK (R132). -/
def State.breakEdge (s : State) (k : StationId) : State :=
  (((((s.countBreak k).mark (.station k)).oweEvent k).requestHeld k .breakLine)).weighDrain k

/-- A qualified change of break line k (R129, R131); edge or not, it marks the record (R137). -/
def State.breakQualifies (s : State) (k : StationId) : State :=
  let t := (s.setBreak k s.breaks[k].qualify).mark (.station k)
  if isBreakEdge (cbPolarity s.shadows.stations[k]) s.breaks[k].raw then t.breakEdge k else t

/-- A change that is qualifying and has run for the filter time in force qualifies (R130). -/
def State.breakDue (s : State) (k : StationId) : State :=
  match s.breaks[k].timer with
  | some t => if t + cbFilterTime s.shadows.stations[k] ≤ s.now then s.breakQualifies k else s
  | none => s

/-- BREAK_LINE_CHANGE (R129): a level that has already stood for the filter time has qualified before
the line leaves it (log 33); then the timer is started or cleared, and with F = 0 the change is a
qualified change at once (log 10). -/
def breakLineChange (k : StationId) (level : Bool) (s : State) : State :=
  let t := s.breakDue k
  (t.setBreak k (t.breaks[k].sense level t.now)).breakDue k

/-- BREAK_QUALIFIED_CHANGE (R129, R130): the running timer reaches the filter time in force. -/
def breakQualifiedChange (k : StationId) (s : State) : State :=
  match s.breaks[k].timer with
  | some t => (s.reach (t + cbFilterTime s.shadows.stations[k])).breakQualifies k
  | none => s

/-- A qualified change of the stop line marks the job record and owes it the stop-change bit (R137). -/
def State.stopQualifies (s : State) : State :=
  (({ s with stop := s.stop.qualify }).mark .job).owe .job stopChangeBit

/-- One station takes the stop line's assertion (R135). -/
def State.stopStation (s : State) (k : StationId) : State := (s.requestHeld k .stopLine).weighDrain k

/-- A qualified change of the stop line (R134, R135): at a fall, its assertion, each station is asked to
enter HELD with reason STOP; a rise, its negation, moves no drive. -/
def State.stopChanges (s : State) : State :=
  if s.stop.raw then s.stopQualifies else stationOrder.foldl State.stopStation s.stopQualifies

/-- A change that is qualifying and has run for 256 µs qualifies (R134). -/
def State.stopDue (s : State) : State :=
  match s.stop.timer with
  | some t => if t + Config.stopFilterTime ≤ s.now then s.stopChanges else s
  | none => s

/-- STOP_LINE_CHANGE (R134): a level that has already stood for 256 µs has qualified before the line
leaves it (log 33); then the timer is started or cleared. -/
def stopLineChange (level : Bool) (s : State) : State :=
  let t := s.stopDue
  { t with stop := t.stop.sense level t.now }

/-- STOP_ASSERTION (R134, R135): a fall of STOP_N that has stood for 256 µs. -/
def stopAssertion (s : State) : State :=
  match s.stop.timer, s.stop.raw with
  | some t, false => (s.reach (t + Config.stopFilterTime)).stopChanges
  | some _, true => s
  | none, _ => s

/-- STOP_NEGATION (R134, R135): a rise of STOP_N that has stood for 256 µs. -/
def stopNegation (s : State) : State :=
  match s.stop.timer, s.stop.raw with
  | some t, true => (s.reach (t + Config.stopFilterTime)).stopChanges
  | some _, false => s
  | none, _ => s

/-- BREAK_LINE_CHANGE (R129). -/
def execBreakLineChange (k : StationId) (level : Bool) (s : State) :
    Host.Outcome State Fault Refusal := goOn (s.act (breakLineChange k level))

/-- BREAK_QUALIFIED_CHANGE (R129). -/
def execBreakQualifiedChange (k : StationId) (s : State) : Host.Outcome State Fault Refusal :=
  goOn (s.act (breakQualifiedChange k))

/-- STOP_LINE_CHANGE (R134). -/
def execStopLineChange (level : Bool) (s : State) : Host.Outcome State Fault Refusal :=
  goOn (s.act (stopLineChange level))

/-- STOP_ASSERTION (R135). -/
def execStopAssertion (s : State) : Host.Outcome State Fault Refusal := goOn (s.act stopAssertion)

/-- STOP_NEGATION (R134). -/
def execStopNegation (s : State) : Host.Outcome State Fault Refusal := goOn (s.act stopNegation)

end Sys2Proof.Machine
end

