-- ==== Sys2Proof/Machine/Commands.lean ====
section
/-! DEFINITION. What job and station commands do (R23 to R28, R60 to R70, R161, R162): their starts
from a taken command word, and the completions of OPEN, ATTACH and RELEASE. -/

namespace Sys2Proof.Machine

/-! ### Job commands -/

/-- Emptying the assembler clears the mask and zeroes the holders (R29). -/
def Job.emptyAssembler (j : Job) : Job := { j with mask := 0#8, holders := zeroRecord }

def allOff (s : State) : Bool := stationOrder.all (fun k => s.stations[k].feed == .off)

/-- OPEN is taken when the job is NONE or CLOSED and every station is OFF (R24). -/
def startOpen (w : Word) (s : State) : State :=
  if s.job.state = .opened ∨ allOff s = false then s.completeJob 1#4 .badState
  else s.setJob { s.job with opening := some (cmdIndex w, cmdSeq w) }

/-- CLOSE (R26). -/
def startClose (s : State) : State :=
  match s.job.state with
  | .opened => (s.setJob { s.job.emptyAssembler with state := .closed }).completeJob 2#4 .ok
  | .closed => s.completeJob 2#4 .ok
  | .noJob => s.completeJob 2#4 .badState

/-- Job command codes (R23): 0 starts nothing, 1 OPEN, 2 CLOSE, 3 to 15 BAD_CMD. -/
def startJobCommand (w : Word) (s : State) : State :=
  match (cmdCode w).toNat with
  | 0 => s
  | 1 => startOpen w s
  | 2 => startClose s
  | _ => s.completeJob (cmdCode w) .badCmd

/-- The policy word's values other than 0 and 1 are captured as KEEP (R28). -/
def policyOfWord (w : Word) : Policy := if w = 1#32 then .yield else .keep

/-- The changes of an OPEN that succeeds (R25 case 4). -/
def openedJob (s : State) (index : BitVec 5) (start : Seq) (d : Descriptor) : Job :=
  { s.job.emptyAssembler with
    state := .opened
    journal := some index
    base := d.w1
    slots := slotCount d
    start := start
    frontier := start
    counter := 0#16
    policy := policyOfWord s.shadows.job[0] }

/-- OPEN completes when its descriptor read returns (R25). -/
def completeOpen (index : BitVec 5) (start : Seq) (ans : ReadAnswer 4) (s : State) : State :=
  match ans with
  | .fault =>
    (s.logError .memFault .command false (descAddr s index.toNat) 0#32 none).completeJob 1#4 .badArg
  | .ok v =>
    if allOff s = false then s.completeJob 1#4 .badState
    else if journalAccepted (pageBase s) (descOf v) then
      (s.setJob (openedJob s index start (descOf v))).completeJob 1#4 .ok
    else s.completeJob 1#4 .badArg

/-! ### Station commands -/

/-- ATTACH's first checks (R61): the feed is OFF, then the job is OPEN or CLOSED. -/
def startAttach (k : StationId) (w : Word) (s : State) : State :=
  if s.stations[k].feed ≠ .off then s.completeStation k 1#4 .badState
  else if s.job.state = .noJob then s.completeStation k 1#4 .noJob
  else s.setStation k { s.stations[k] with
    progress := .attaching (cbRingIndex s.shadows.stations[k]) (cmdSeq w) }

/-- DETACH (R64). -/
def startDetach (k : StationId) (s : State) : State :=
  match s.stations[k].feed with
  | .live => (s.detachFeed k).completeStation k 2#4 .ok
  | .catchup => (s.detachFeed k).completeStation k 2#4 .ok
  | .off => s.completeStation k 2#4 .badState
  | .detached => s.completeStation k 2#4 .badState
  | .lost _ => s.completeStation k 2#4 .badState

/-- REATTACH (R65): LIVE when level with the frontier and no commit is in flight, else CATCHUP. -/
def startReattach (k : StationId) (s : State) : State :=
  if s.stations[k].feed = .detached then
    let feed : Feed :=
      if s.stations[k].post = s.job.frontier ∧ s.job.inFlight = false then .live else .catchup
    (((s.setStation k { s.stations[k] with feed := feed }).tellGate k)).completeStation k 3#4 .ok
  else s.completeStation k 3#4 .badState

/-- HOLD is taken by the drive state (R66). -/
def startHold (k : StationId) (s : State) : State :=
  match s.stations[k].drive with
  | .running => ((s.requestHeld k .operator).weighDrain k).completeStation k 4#4 .ok
  | .held _ => s.completeStation k 4#4 .ok
  | .stopped => s.completeStation k 4#4 .badState
  | .fault _ => s.completeStation k 4#4 .badState

/-- A HALT queued on the link is pending until the end of its transmission (R57, R110). -/
def haltPending (l : Link) : Bool :=
  match l.slot with
  | .halt _ => true
  | .empty => false
  | .go => false

/-- The checks of RESUME in their order (R67). -/
def resumeResult (k : StationId) (s : State) : Result :=
  match s.stations[k].drive with
  | .held _ =>
    if s.stop.qualified = false then .stopActive
    else if breakActive (cbPolarity s.shadows.stations[k]) s.breaks[k] then .breakActive
    else if haltPending s.links[k] then .haltPending
    else .ok
  | .stopped => .badState
  | .running => .badState
  | .fault _ => .badState

/-- RESUME (R67): the drive becomes RUNNING and a GO is queued (R58). -/
def startResume (k : StationId) (s : State) : State :=
  if resumeResult k s = .ok then
    ((s.setStation k { s.stations[k] with drive := .running }).setLink k
      { s.links[k] with slot := .go }).completeStation k 5#4 .ok
  else s.completeStation k 5#4 (resumeResult k s)

/-- CLEAR (R68): FAULT becomes HELD with reason CLEARED, and the slot is read afresh. -/
def startClear (k : StationId) (s : State) : State :=
  match s.stations[k].drive with
  | .fault _ =>
    ((((s.enterDrive k (.held .cleared) none).oweEvent k).weighDrain k)).completeStation k 6#4 .ok
  | .stopped => s.completeStation k 6#4 .badState
  | .running => s.completeStation k 6#4 .badState
  | .held _ => s.completeStation k 6#4 .badState

/-- RELEASE's wait ends when no frame is in transmission and no HALT is pending (R69). -/
def releaseReady (l : Link) : Bool := l.tx.isNone && !haltPending l

/-- A released station (R70). -/
def releasedStation (st : Station) : Station :=
  { st with
    feed := .off
    drive := .stopped
    ring := none
    ringBase := 0#32
    capacity := 0
    post := 0#16
    send := 0#16
    done := 0#16 }

/-- RELEASE completes (R70): the station OFF and STOPPED with its pointers zero, the staging buffer
emptied, reads in flight marked, the ring unlatched, the gate left, the queued frames stale. -/
def finishRelease (k : StationId) (s : State) : State :=
  (((((s.setLink k s.links[k].rewind).setStation k (releasedStation s.stations[k])).overtake
    k).tellGate k).discardQueue k).completeStation k 7#4 .ok

/-- RELEASE (R69): a RUNNING drive is held; it completes at once when the link is idle with no HALT
pending, and waits otherwise (log 18). -/
def startRelease (k : StationId) (s : State) : State :=
  if s.stations[k].feed = .off then s.completeStation k 7#4 .badState
  else
    let t := (s.requestHeld k .operator).weighDrain k
    if releaseReady t.links[k] then finishRelease k t
    else t.setStation k { t.stations[k] with progress := .releasing }

/-- Station command codes (R60): 0 starts nothing, 8 to 15 are BAD_CMD. -/
def startStationCommand (k : StationId) (w : Word) (s : State) : State :=
  match (cmdCode w).toNat with
  | 0 => s
  | 1 => startAttach k w s
  | 2 => startDetach k s
  | 3 => startReattach k s
  | 4 => startHold k s
  | 5 => startResume k s
  | 6 => startClear k s
  | 7 => startRelease k s
  | _ => s.completeStation k (cmdCode w) .badCmd

/-! ### The completion of ATTACH -/

/-- A sequence number is retained: its distance to the frontier lies in 1..min(counter, N) (R22). -/
def retained (j : Job) (s : Seq) : Bool :=
  decide (1 ≤ seqDist s j.frontier ∧ seqDist s j.frontier ≤ min j.counter.toNat j.slots)

/-- frontier − N (R36). -/
def overwrittenSeq (j : Job) : Seq := j.frontier - BitVec.ofNat 16 j.slots

/-- The starting sequence is accepted (R62 case 3). -/
def startAccepted (j : Job) (s : Seq) : Bool :=
  (retained j s || s == j.frontier) && !(j.inFlight && s == overwrittenSeq j)

/-- A station attached at `s` (R63). -/
def attachedStation (st : Station) (j : Job) (index : BitVec 5) (s : Seq) (d : Descriptor) :
    Station :=
  { st with
    feed := if s = j.frontier ∧ j.inFlight = false then .live else .catchup
    ring := some index
    ringBase := d.w1
    capacity := slotCount d
    post := s
    send := s
    done := s }

/-- An ATTACH that succeeds (R63): the drive enters HELD with reason ATTACH and the gate is told. -/
def attachStation (k : StationId) (index : BitVec 5) (seq : Seq) (d : Descriptor) (s : State) :
    State :=
  (s.setStation k (attachedStation s.stations[k] s.job index seq d)).enterDrive k (.held .attach)
    none

/-- The result of ATTACH by the cases of R62. -/
def attachResult (k : StationId) (seq : Seq) (ans : ReadAnswer 4) (s : State) : Result :=
  match ans with
  | .fault => .noRing
  | .ok v =>
    if ringAccepted (pageBase s) k (descOf v) then
      if startAccepted s.job seq then .ok else .badArg
    else .noRing

/-- ATTACH completes when its descriptor read returns (R62): the queued frames are discarded before
the station leaves OFF, whatever the result (R107). -/
def completeAttach (k : StationId) (index : BitVec 5) (seq : Seq) (ans : ReadAnswer 4) (s : State) :
    State :=
  let t := s.discardQueue k
  match ans with
  | .fault =>
    (t.logError .memFault .command false (descAddr s index.toNat) 0#32 (some k)).completeStation k
      1#4 .noRing
  | .ok v =>
    if attachResult k seq ans s = .ok then
      (attachStation k index seq (descOf v) t).completeStation k 1#4 .ok
    else t.completeStation k 1#4 (attachResult k seq ans s)

/-! ### The rows that complete a command -/

/-- OPEN_COMPLETE: the answer to OPEN's descriptor read (R25). -/
def openComplete (ans : ReadAnswer 4) (s : State) : State :=
  match inFlightFor s .commandJob, s.job.opening with
  | true, some (index, start) => completeOpen index start ans s.portAnswered
  | true, none => s.portAnswered
  | false, _ => s

/-- ATTACH_COMPLETE: the answer to the ATTACH read that the port carries (R62). -/
def attachComplete (ans : ReadAnswer 4) (s : State) : State :=
  match s.port.inFlight with
  | some ⟨.commandStation k, _⟩ =>
    match s.stations[k].progress with
    | .attaching index seq => completeAttach k index seq ans s.portAnswered
    | .idle => s.portAnswered
    | .releasing => s.portAnswered
  | some ⟨.transit, _⟩ => s
  | some ⟨.commandJob, _⟩ => s
  | some ⟨.status, _⟩ => s
  | some ⟨.drain _, _⟩ => s
  | some ⟨.replay, _⟩ => s
  | none => s

/-- RELEASE_COMPLETE: a RELEASE that waits finds its conditions (R70). -/
def releaseComplete (k : StationId) (s : State) : State :=
  if s.stations[k].progress = .releasing ∧ releaseReady s.links[k] = true then finishRelease k s
  else s

/-- OPEN_COMPLETE (R25). -/
def execOpenComplete (ans : Arrived (ReadAnswer 4)) (s : State) :
    Host.Outcome State Fault Refusal := s.actAnswer openComplete ans

/-- ATTACH_COMPLETE (R62). -/
def execAttachComplete (ans : Arrived (ReadAnswer 4)) (s : State) :
    Host.Outcome State Fault Refusal := s.actAnswer attachComplete ans

/-- RELEASE_COMPLETE (R70). -/
def execReleaseComplete (k : StationId) (s : State) : Host.Outcome State Fault Refusal :=
  goOn (s.act (releaseComplete k))

end Sys2Proof.Machine
end

