-- ==== Sys2Proof/Machine/Links.lean ====
section
/-! DEFINITION. The drive links (chapter 6): the receiver's characters and frames, the frames that the
station takes, the transmitter, and the end of a frame sent. -/

namespace Sys2Proof.Machine

/-! ### The receiver (R102, R103, R105, R106) -/

/-- The settings a character is read under: those with which it began (R101). -/
def charSettings (l : Link) (c : SampledChar) : LineSettings := c.begunUnder.getD l.line

/-- The frame assembler's first character (R103, R106): the queue then decides whether the frame is
received or is an overrun. -/
def firstChar (l : Link) (b : Byte) (taint : Bool) (now : Nat) : RxFrame :=
  if l.queue.length < 2 then ⟨.received, [b], 1, taint, now⟩ else ⟨.overrun, [], 1, false, now⟩

/-- A later character of a frame: the first five bytes are kept and the rest counted (R105). -/
def RxFrame.next (f : RxFrame) (b : Byte) (taint : Bool) (now : Nat) : RxFrame :=
  { f with
    kept := if f.kept.length < 5 then f.kept ++ [b] else f.kept
    count := f.count + 1
    tainted := f.tainted || taint
    lastAt := now }

/-- CHARACTER_COMPLETE (R102, R106). After a framing error no character is formed until the line has
returned to mark; a last stop bit sampled at mark is that return. With no frame being received the
character begins one (R103), after a power-on reset too (log 37). -/
def characterComplete (k : StationId) (c : SampledChar) (s : State) : State :=
  let l := s.links[k]
  if l.waitMark then s
  else
    let set := charSettings l c
    let b := charByte set c
    let taint := framingError set c || parityError set c
    let wait := lastStopSpace set c
    match l.rx with
    | some f =>
      s.setLink k { l with rx := some (f.next b taint s.now), waitMark := wait }
    | none =>
      let t := s.setLink k { l with rx := some (firstChar l b taint s.now), waitMark := wait }
      if l.queue.length < 2 then t else t.countOverrun k

/-- LINE_RETURNED_TO_MARK (R102): the receiver looks for a start bit again. -/
def lineReturnedToMark (k : StationId) (s : State) : State :=
  s.setLink k { s.links[k] with waitMark := false }

/-- FRAME_END (R103, R105, R106): 2 character times after the last complete character. -/
def frameEnd (k : StationId) (s : State) : State :=
  let l := s.links[k]
  match l.rx with
  | none => s
  | some f =>
    let t := s.reach (f.lastAt + 2 * charTime l.line)
    match f.mode with
    | .received =>
      match examineFrame f with
      | some d => t.setLink k { l with rx := none, queue := l.queue ++ [d] }
      | none => (t.setLink k { l with rx := none }).countLinkError k
    | .overrun => t.setLink k { l with rx := none }
    | .dropped => t.setLink k { l with rx := none }

/-! ### Taking a frame (R107, sections 6.6 and 6.7) -/

/-- The station may take a frame: its command slot is not busy; the oldest frame, if any (R107). -/
def nextFrame (s : State) (k : StationId) : Option DriveFrame :=
  if stationBusy s.stations[k] then none else s.links[k].queue.head?

/-- The oldest frame leaves the queue. -/
def State.popFrame (s : State) (k : StationId) : State :=
  s.setLink k { s.links[k] with queue := s.links[k].queue.tail }

/-- A taken frame is handled, or discarded as stale while the feed is OFF (R107). -/
def State.takeFrame (s : State) (k : StationId) (f : State → State) : State :=
  if s.stations[k].feed = .off then (s.popFrame k).countStale k else f (s.popFrame k)

/-- The outstanding SEG is `seq`, in any phase (R117). -/
def segIs (l : Link) (seq : Seq) : Bool :=
  match l.outstanding with
  | some o => o.seq == seq
  | none => false

/-- The outstanding SEG is `seq` in the WAITING phase (R118). -/
def segWaiting (l : Link) (seq : Seq) : Bool :=
  match l.outstanding with
  | some o => o.seq == seq && o.phase == .waiting
  | none => false

/-- The outstanding SEG is cleared, and its ack timer stopped (R115). -/
def Link.clearSeg (l : Link) : Link := { l with outstanding := none, ackTimer := none }

/-- A matching ACC (R117). -/
def accTaken (k : StationId) (seq : Seq) (s : State) : State :=
  if segIs s.links[k] seq then
    ((s.setStation k { s.stations[k] with send := s.stations[k].send + 1#16 }).setLink k
      { s.links[k].clearSeg with retry := 0, staging := .empty }).weighDrain k
  else s.countStale k

/-- A DONE that leaves send before done carries send, and gives up what was staged for it (R123); a SEG
on the wire has stopped being send, and will end without effect (R115). -/
def Link.carried (l : Link) : Link :=
  { l.clearSeg with
    staging := .empty
    drain := l.drain.map DrainRead.markRead
    retry := 0
    tx := l.tx.map Tx.void }

/-- The station after a DONE for sequence done (R123). -/
def doneStation (st : Station) : Station :=
  let d := st.done + 1#16
  { st with done := d, send := if seqBefore st.send d then d else st.send }

/-- The link after a DONE for sequence done (R123): the full wait is cleared. -/
def doneLink (st : Station) (l : Link) : Link :=
  { (if seqBefore st.send (st.done + 1#16) then l.carried else l) with fullWait := false }

/-- A DONE(seq) (R123): taken when seq equals done and done is before post; the gate is told. -/
def doneTaken (k : StationId) (seq : Seq) (s : State) : State :=
  let st := s.stations[k]
  if seq = st.done ∧ seqBefore st.done st.post = true then
    (((s.setStation k (doneStation st)).setLink k (doneLink st s.links[k])).setGate
      (s.gate.completed k seq)).weighDrain k
  else s.countStale k

/-- NAK(CHECK) and the expiry (R118): the timer stopped, the retry count raised; a resend is decided,
or the drive is asked to enter FAULT with LINK_TIMEOUT. -/
def retryDecision (k : StationId) (s : State) : State :=
  let l := s.links[k]
  let count := l.retry + 1
  if count ≤ cbRetryLimit s.shadows.stations[k] then
    s.setLink k { l with
      ackTimer := none
      retry := count
      outstanding := l.outstanding.map fun o => { o with phase := .resend } }
  else
    ((s.setLink k { l with ackTimer := none, retry := count }).requestFault k
      .linkTimeout).weighDrain k

/-- NAK(CHECK) (R118). -/
def nakCheckTaken (k : StationId) (seq : Seq) (s : State) : State :=
  if segWaiting s.links[k] seq then retryDecision k s else s.countStale k

/-- NAK(FULL) (R120). -/
def nakFullTaken (k : StationId) (seq : Seq) (s : State) : State :=
  if segIs s.links[k] seq then s.setLink k { s.links[k].clearSeg with fullWait := true }
  else s.countStale k

/-- NAK(TRAVEL) or another reason (R121). -/
def nakTravelTaken (k : StationId) (seq : Seq) (s : State) : State :=
  if segIs s.links[k] seq then (s.requestFault k .driveRefused).weighDrain k else s.countStale k

/-- FLT (R122). -/
def fltTaken (k : StationId) (code : Byte) (s : State) : State :=
  (s.requestFault k (.driveFault code)).weighDrain k

/-- NAK reasons CHECK 1 and FULL 2; any other counts as TRAVEL (Table 6-2). -/
def nakReasonCheck : Byte := 1#8
def nakReasonFull : Byte := 2#8

/-- ACC: the oldest frame is an ACC and is taken (R107, R117). -/
def accFrame (k : StationId) (s : State) : State :=
  match nextFrame s k with
  | some (.acc q) => s.takeFrame k (accTaken k q)
  | some (.done _) => s
  | some (.nak _ _) => s
  | some (.flt _) => s
  | none => s

/-- DONE: the oldest frame is a DONE and is taken (R107, R123). -/
def doneFrame (k : StationId) (s : State) : State :=
  match nextFrame s k with
  | some (.done q) => s.takeFrame k (doneTaken k q)
  | some (.acc _) => s
  | some (.nak _ _) => s
  | some (.flt _) => s
  | none => s

/-- NAK_CHECK: the oldest frame is a NAK with reason CHECK and is taken (R107, R118). -/
def nakCheck (k : StationId) (s : State) : State :=
  match nextFrame s k with
  | some (.nak q r) => if r = nakReasonCheck then s.takeFrame k (nakCheckTaken k q) else s
  | some (.acc _) => s
  | some (.done _) => s
  | some (.flt _) => s
  | none => s

/-- NAK_FULL: the oldest frame is a NAK with reason FULL and is taken (R107, R120). -/
def nakFull (k : StationId) (s : State) : State :=
  match nextFrame s k with
  | some (.nak q r) => if r = nakReasonFull then s.takeFrame k (nakFullTaken k q) else s
  | some (.acc _) => s
  | some (.done _) => s
  | some (.flt _) => s
  | none => s

/-- NAK_TRAVEL: the oldest frame is a NAK with any other reason and is taken (R107, R121). -/
def nakTravel (k : StationId) (s : State) : State :=
  match nextFrame s k with
  | some (.nak q r) =>
    if r = nakReasonCheck ∨ r = nakReasonFull then s else s.takeFrame k (nakTravelTaken k q)
  | some (.acc _) => s
  | some (.done _) => s
  | some (.flt _) => s
  | none => s

/-- FLT: the oldest frame is a FLT and is taken (R107, R122). -/
def fltFrame (k : StationId) (s : State) : State :=
  match nextFrame s k with
  | some (.flt c) => s.takeFrame k (fltTaken k c)
  | some (.acc _) => s
  | some (.done _) => s
  | some (.nak _ _) => s
  | none => s

/-! ### The transmitter (R108, R109, R114, R116, R119) -/

/-- ACK_TIMER_EXPIRY (R116, R118): the running timer reaches its timeout. -/
def ackTimerExpiry (k : StationId) (s : State) : State :=
  match s.links[k].ackTimer with
  | some t => retryDecision k (s.reach (t.start + t.limit))
  | none => s

/-- The time at which the wire is free: 3 character times after the last frame's end or the reset
(R108). -/
def wireFreeAt (l : Link) : Nat := l.gapFrom + 3 * charTime l.line

/-- Begin a frame: its bytes are fixed at this moment (R108). -/
def State.beginTx (s : State) (k : StationId) (kind : TxKind) (bytes : List Byte) : State :=
  let t := s.reach (wireFreeAt s.links[k])
  t.setLink k { s.links[k] with tx := some ⟨kind, bytes, t.now⟩ }

/-- HALT_BEGIN (R109): a HALT in the slot is begun whatever READY says, and stays in the slot (R110). -/
def haltBegin (k : StationId) (s : State) : State :=
  match s.links[k].tx, s.links[k].slot with
  | none, .halt r => s.beginTx k .halt (haltFrame r)
  | none, .empty => s
  | none, .go => s
  | some _, _ => s

/-- GO_BEGIN (R109): a GO is begun when READY is asserted, and leaves the slot (R110). -/
def goBegin (k : StationId) (s : State) : State :=
  match s.links[k].tx, s.links[k].slot with
  | none, .go =>
    if s.links[k].ready then
      let t := s.beginTx k .go goFrame
      t.setLink k { t.links[k] with slot := .empty }
    else s
  | none, .empty => s
  | none, .halt _ => s
  | some _, _ => s

/-- The conditions of R114 on the station, the link and the gate, but for the wire and the staged
copy. -/
def segEligible (s : State) (k : StationId) : Bool :=
  let st := s.stations[k]
  let l := s.links[k]
  st.drive == .running && seqBefore st.send st.post
    && decide (seqDist st.done st.send < cbQueueDepth s.shadows.stations[k])
    && s.gate.allows st.send && l.outstanding.isNone && !l.fullWait && l.ready
    && l.slot == .empty && l.tx.isNone

/-- SEG_BEGIN (R114). -/
def segBegin (k : StationId) (s : State) : State :=
  match s.links[k].staging with
  | .copy q r =>
    if segEligible s k && q == s.stations[k].send then s.beginTx k (.seg q false) (segFrame r) else s
  | .empty => s
  | .spoiled _ => s

/-- RESEND_BEGIN (R119): the SEG enters ON_WIRE and the retry counter increases. -/
def resendBegin (k : StationId) (s : State) : State :=
  let l := s.links[k]
  match l.outstanding, l.staging with
  | some ⟨q, .resend⟩, .copy _ r =>
    if l.tx.isNone && l.ready && l.slot == .empty then
      let t := s.beginTx k (.resend q false) (segFrame r)
      (t.setLink k { t.links[k] with outstanding := some ⟨q, .onWire⟩ }).countRetry k
    else s
  | some ⟨_, .resend⟩, .empty => s
  | some ⟨_, .resend⟩, .spoiled _ => s
  | some ⟨_, .waiting⟩, _ => s
  | some ⟨_, .onWire⟩, _ => s
  | none, _ => s

/-- The ack timer is started with the timeout then in the shadow (R116). -/
def startedTimer (k : StationId) (s : State) : Option AckTimer :=
  some ⟨s.now, cbAckTimeout s.shadows.stations[k]⟩

/-- What the end of a frame does beyond freeing the wire (R110, R115, R119). -/
def frameEffect (k : StationId) (kind : TxKind) (s : State) : State :=
  let l := s.links[k]
  match kind with
  | .halt => s.setLink k { l with slot := .empty }
  | .go => s
  | .seg q void =>
    if void = false ∧ s.stations[k].drive = .running ∧ s.stations[k].send = q then
      s.setLink k { l with
        outstanding := some ⟨q, .waiting⟩
        retry := 0
        ackTimer := startedTimer k s }
    else s
  | .resend q void =>
    if void = false ∧ l.outstanding = some ⟨q, .onWire⟩ then
      s.setLink k { l with outstanding := some ⟨q, .waiting⟩, ackTimer := startedTimer k s }
    else s

/-- When the frame on the wire and the HALT owed or pending have been sent, the work of a bus reset
ends and the link takes the line settings of the shadow (R128). -/
def endResetWork (k : StationId) (s : State) : State :=
  if s.links[k].resetWork && !haltPending s.links[k] then
    s.setLink k { s.links[k] with resetWork := false, line := cbLine s.shadows.stations[k] }
  else s

/-- The time of a frame's last stop bit (R103). -/
def txEnd (l : Link) (t : Tx) : Nat := t.start + t.bytes.length * charTime l.line

/-- FRAME_TRANSMIT_END (R108, R110, R115, R119, R128). -/
def frameTransmitEnd (k : StationId) (s : State) : State :=
  match s.links[k].tx with
  | some t =>
    let u := s.reach (txEnd s.links[k] t)
    endResetWork k
      (frameEffect k t.kind (u.setLink k { s.links[k] with tx := none, gapFrom := u.now }))
  | none => s

/-- READY_CHANGE (R109): READY is a pin, sampled when a frame is begun (log 7). -/
def readyChange (k : StationId) (asserted : Bool) (s : State) : State :=
  s.setLink k { s.links[k] with ready := asserted }

/-! ### The rows -/

/-- CHARACTER_COMPLETE (R102). -/
def execCharacterComplete (k : StationId) (sample : SampledChar) (s : State) :
    Host.Outcome State Fault Refusal := goOn (s.act (characterComplete k sample))

/-- LINE_RETURNED_TO_MARK (R102). -/
def execLineReturnedToMark (k : StationId) (s : State) : Host.Outcome State Fault Refusal :=
  goOn (s.act (lineReturnedToMark k))

/-- FRAME_END (R105). -/
def execFrameEnd (k : StationId) (s : State) : Host.Outcome State Fault Refusal :=
  goOn (s.act (frameEnd k))

/-- ACC (R117). -/
def execAccFrame (k : StationId) (s : State) : Host.Outcome State Fault Refusal :=
  goOn (s.act (accFrame k))

/-- DONE (R123). -/
def execDoneFrame (k : StationId) (s : State) : Host.Outcome State Fault Refusal :=
  goOn (s.act (doneFrame k))

/-- NAK_CHECK (R118). -/
def execNakCheck (k : StationId) (s : State) : Host.Outcome State Fault Refusal :=
  goOn (s.act (nakCheck k))

/-- NAK_FULL (R120). -/
def execNakFull (k : StationId) (s : State) : Host.Outcome State Fault Refusal :=
  goOn (s.act (nakFull k))

/-- NAK_TRAVEL (R121). -/
def execNakTravel (k : StationId) (s : State) : Host.Outcome State Fault Refusal :=
  goOn (s.act (nakTravel k))

/-- FLT (R122). -/
def execFltFrame (k : StationId) (s : State) : Host.Outcome State Fault Refusal :=
  goOn (s.act (fltFrame k))

/-- ACK_TIMER_EXPIRY (R118). -/
def execAckTimerExpiry (k : StationId) (s : State) : Host.Outcome State Fault Refusal :=
  goOn (s.act (ackTimerExpiry k))

/-- HALT_BEGIN (R109). -/
def execHaltBegin (k : StationId) (s : State) : Host.Outcome State Fault Refusal :=
  goOn (s.act (haltBegin k))

/-- GO_BEGIN (R109). -/
def execGoBegin (k : StationId) (s : State) : Host.Outcome State Fault Refusal :=
  goOn (s.act (goBegin k))

/-- SEG_BEGIN (R114). -/
def execSegBegin (k : StationId) (s : State) : Host.Outcome State Fault Refusal :=
  goOn (s.act (segBegin k))

/-- RESEND_BEGIN (R119). -/
def execResendBegin (k : StationId) (s : State) : Host.Outcome State Fault Refusal :=
  goOn (s.act (resendBegin k))

/-- FRAME_TRANSMIT_END (R108). -/
def execFrameTransmitEnd (k : StationId) (s : State) : Host.Outcome State Fault Refusal :=
  goOn (s.act (frameTransmitEnd k))

/-- READY_CHANGE (R109). The pin's level is followed under PORST_N too (log 7). -/
def execReadyChange (k : StationId) (asserted : Bool) (s : State) : Host.Outcome State Fault Refusal :=
  goOn (readyChange k asserted s)

end Sys2Proof.Machine
end

