-- ==== Sys2Proof/Machine/Commit.lean ====
section
/-! DEFINITION. The record assembler and the commit (R29 to R43): a write handed to the journal
controller, the record checks, the capacity checks, the apply step, the posts and the end. -/

namespace Sys2Proof.Machine

/-! ### The assembler -/

/-- Store words into the holders from a word position on, setting their mask bits (R31). -/
def storeWords (j : Job) (pos : Nat) : List WriteWord → Job
  | [] => j
  | w :: ws =>
    storeWords
      { j with
        holders := j.holders.set (Fin.ofNat 8 pos) w.data
        mask := j.mask ||| (1#8 <<< (pos % 8)) }
      (pos + 1) ws

/-- The journal slot that an address falls in (R21). -/
def journalSlot (j : Job) (a : Word) : Nat := (a - j.base).toNat / 32

def frontierSlot (j : Job) : Nat := slotOf j.frontier j.slots

/-- The distance from a slot's latest sequence L to the frontier, 1..N (R32). -/
def latestDistance (j : Job) (slot : Nat) : Nat :=
  let d := (j.frontier.toNat + j.slots - slot) % j.slots
  if d = 0 then j.slots else d

/-! ### Checks -/

/-- The record checks, the first failure deciding (R35). -/
def recordFault (j : Job) : Option ErrorKind :=
  if !checkCorrect j.holders then some .badCheck
  else if recSeq j.holders ≠ j.frontier then some .badSeq
  else if !recWellFormed j.holders then some .badFormat
  else none

/-- A DETACHED or CATCHUP station that needs the record at frontier − N (R36, R37). -/
def atOverwrite (j : Job) (st : Station) : Bool :=
  (st.feed == .detached || st.feed == .catchup) && st.post == overwrittenSeq j

/-- A LIVE station with a full ring. -/
def liveFull (st : Station) : Bool := st.feed == .live && ringFull st

/-- The capacity checks (R36): some condition holds that asks the processor to come back. -/
def capacityFault (s : State) : Bool :=
  (recSync s.job.holders && decide (4 ≤ s.gate.entries.length))
    || (s.job.policy == .keep && stationOrder.any (fun k => atOverwrite s.job s.stations[k]))
    || stationOrder.any (fun k => liveFull s.stations[k] && !cbLagDetach s.shadows.stations[k])

/-! ### Apply -/

/-- The first act of the apply step, for one station (R37). -/
def State.moveOverwritten (s : State) (k : StationId) : State :=
  if s.job.policy = .yield ∧ atOverwrite s.job s.stations[k] = true then s.loseFeed k .overwritten else s

/-- The second act, for one station (R38). -/
def State.moveLagging (s : State) (k : StationId) : State :=
  if liveFull s.stations[k] = true ∧ cbLagDetach s.shadows.stations[k] = true then s.detachFeed k else s

/-- The fan-out set: the LIVE stations, in station order (R39). -/
def fanOutSet (s : State) : List StationId := stationOrder.filter (fun k => s.stations[k].feed == .live)

/-- The apply step up to the request of the journal write (R34, R37 to R39). -/
def startApply (t : ProcTxn) (s : State) : State :=
  let flagged := s.setJob { s.job with inFlight := true }
  let overwritten := stationOrder.foldl State.moveOverwritten flagged
  let lagging := stationOrder.foldl State.moveLagging overwritten
  lagging.startWork t (.journalWrite (fanOutSet lagging))

/-- A commit is attempted: the record checks, the capacity checks, then apply (R34 to R36). A failed
record check clears a full mask, which marks the job record whatever the mask was before the write
(R29). -/
def attemptCommit (t : ProcTxn) (s : State) : State :=
  match recordFault s.job with
  | some e => ((s.setJob s.job.emptyAssembler).mark .job).refuse e t
  | none => if capacityFault s then s.answer .retry else startApply t s

/-! ### A write handed to the journal controller -/

/-- R30 to R32: the job state, whole words, then the slot. -/
def journalWrite (t : WriteTxn) (s : State) : State :=
  let p := ProcTxn.write t
  if s.job.state ≠ .opened then s.refuse .noJob p
  else if !(txnWords t).all wholeWord then s.refuse .partialWord p
  else
    let slot := journalSlot s.job (byteAddr t.addr)
    if slot = frontierSlot s.job then
      let stored := s.setJob (storeWords s.job (t.addr.toNat % 8) (txnWords t))
      if stored.job.mask = 0xFF#8 then attemptCommit p stored else stored.answer (.done [])
    else if latestDistance s.job slot ≤ min s.job.counter.toNat s.job.slots then s.refuse .rewrite p
    else s.refuse .gap p

/-! ### The end of the commit -/

/-- Every CATCHUP station is tested for joining (R86). -/
def joinAll (s : State) : State := stationOrder.foldl State.joinLive s

/-- The gate receives a SYNC record's sequence number (R41, R93). -/
def insertSync (s : State) : State :=
  if recSync s.job.holders then s.setGate (s.gate.insert s.stations s.job.frontier) else s

/-- The journal controller after a successful commit (R42). -/
def committedJob (j : Job) : Job :=
  { j.emptyAssembler with
    frontier := j.frontier + 1#16
    counter := satInc j.counter
    inFlight := false
    state := if recKind j.holders = some .endJob then .closed else j.state }

/-- An END record owes the job-state-change bit (R42). -/
def oweEnd (s : State) : State :=
  if recKind s.job.holders = some .endJob then s.owe .job jobChangeBit else s

/-- The end of a commit whose journal write succeeded (R41, R42, R86). -/
def commitEnd (s : State) : State :=
  let t := oweEnd (insertSync s)
  (joinAll (t.setJob (committedJob t.job))).answer (.done [])

/-- The end of a commit whose journal write was answered FAULT (R39, R86). -/
def commitFail (addr : Word) (s : State) : State :=
  let l := s.logError .memFault .journal true addr s.job.holders[0] none
  (joinAll (l.setJob { l.job.emptyAssembler with inFlight := false })).answer (.error .memFault)

/-! ### The posts -/

/-- A travel fault: drive FAULT with code TRAVEL, feed DETACHED with post unchanged (R40, R82). -/
def State.travelFault (s : State) (k : StationId) : State :=
  ((s.requestFault k .travel).detachFeed k).weighDrain k

/-- The stations of the fan-out set still to be handled (R40): one that is no longer LIVE is passed
over, a travel fault moves its station, a copy is requested to be written; after the last the
commit ends. -/
def commitNext (t : ProcTxn) : List StationId → State → State
  | [], s => commitEnd s
  | k :: rest, s =>
    if s.stations[k].feed = .live then
      match transform s.shadows.stations[k] s.job.holders with
      | none => commitNext t rest (s.travelFault k)
      | some copy =>
        s.startWork t (.postWrite k (ringSlotAddr s.stations[k] s.stations[k].post) copy rest)
    else commitNext t rest s

/-- A station's post advances by one (R49). -/
def State.advancePost (s : State) (k : StationId) : State :=
  s.setStation k { s.stations[k] with post := s.stations[k].post + 1#16 }

/-- A ring write answered OK: post advances and clamps are counted when the feed is still LIVE
(R40). -/
def postOk (k : StationId) (copy : Record) (s : State) : State :=
  if s.stations[k].feed = .live then ((s.advancePost k).countClamp k copy).weighDrain k else s

/-- A ring write answered FAULT: logged; drive FAULT with code MEMORY, feed DETACHED, post unchanged
(R40). A station that has become OFF meanwhile is not moved (log 17). -/
def postFault (k : StationId) (addr : Word) (copy : Record) (s : State) : State :=
  (((s.logError .memFault .post true addr copy[0] (some k)).requestFault k .memory).detachFeed
    k).weighDrain k

/-- The address of the frontier's journal slot (R39). -/
def frontierAddr (j : Job) : Word := slotAddr j.base (frontierSlot j)

/-- JOURNAL_WRITE_ANSWER (R39). -/
def journalWriteAnswer (ans : WriteAnswer) (s : State) : State :=
  match inFlightFor s .transit, s.proc.current with
  | true, some ⟨t, .journalWrite fanOut⟩ =>
    match ans with
    | .ok => commitNext t fanOut s.portAnswered
    | .fault => commitFail (frontierAddr s.job) s.portAnswered
  | true, some ⟨_, .forward _⟩ => s
  | true, some ⟨_, .scan _⟩ => s
  | true, some ⟨_, .detail _ _ _⟩ => s
  | true, some ⟨_, .postWrite _ _ _ _⟩ => s
  | true, none => s
  | false, _ => s

/-- POST_WRITE_ANSWER (R40). -/
def postWriteAnswer (ans : WriteAnswer) (s : State) : State :=
  match inFlightFor s .transit, s.proc.current with
  | true, some ⟨t, .postWrite k addr copy rest⟩ =>
    match ans with
    | .ok => commitNext t rest (postOk k copy s.portAnswered)
    | .fault => commitNext t rest (postFault k addr copy s.portAnswered)
  | true, some ⟨_, .forward _⟩ => s
  | true, some ⟨_, .scan _⟩ => s
  | true, some ⟨_, .detail _ _ _⟩ => s
  | true, some ⟨_, .journalWrite _⟩ => s
  | true, none => s
  | false, _ => s

/-- JOURNAL_WRITE_ANSWER (R39). -/
def execJournalWriteAnswer (ans : Arrived WriteAnswer) (s : State) :
    Host.Outcome State Fault Refusal := s.actAnswer journalWriteAnswer ans

/-- POST_WRITE_ANSWER (R40). -/
def execPostWriteAnswer (ans : Arrived WriteAnswer) (s : State) :
    Host.Outcome State Fault Refusal := s.actAnswer postWriteAnswer ans

end Sys2Proof.Machine
end

