-- ==== Sys2Proof/Machine/ReplayEngine.lean ====
section
/-! DEFINITION. The replay engine (chapter 4): the grant of a turn, the answer to its journal read and
the answer to its ring write. -/

namespace Sys2Proof.Machine

/-- Eligible for a turn: CATCHUP, post before the frontier, the ring not full (R76). -/
def eligible (s : State) (k : StationId) : Bool :=
  let st := s.stations[k]
  st.feed == .catchup && seqBefore st.post s.job.frontier && decide (occupancy st < st.capacity)

/-- The turn of station k for its current post (R77, R78). -/
def newTurn (s : State) (k : StationId) : ReplayTurn :=
  let st := s.stations[k]
  ⟨k, st.post, ringSlotAddr st st.post, false, none⟩

/-- REPLAY_TURN_GRANT (R77): with no turn in flight, the first eligible station after the
round-robin position. -/
def replayTurnGrant (s : State) : State :=
  match s.replay.turn, (stationsAfter s.replay.position).find? (eligible s) with
  | none, some k => { s with replay := ⟨k, some (newTurn s k)⟩ }
  | none, none => s
  | some _, _ => s

/-- The journal slot a turn reads (R78). -/
def turnReadAddr (j : Job) (seq : Seq) : Word := slotAddr j.base (slotOf seq j.slots)

/-- The transaction of a turn's ring write (R83). -/
def turnWrite (t : ReplayTurn) (copy : Record) : InFlight :=
  ⟨.replay, ⟨.replay, t.slotAddr, .write (copy.toList.map asWhole)⟩⟩

/-- The record matched and the transform made a copy (R83): post advances at once, and the ring
write is granted at once in the turn's hold (R177, log 22). -/
def turnCopy (t : ReplayTurn) (copy : Record) (s : State) : State :=
  let u := (s.setStation t.station { s.stations[t.station] with post := t.seq + 1#16 }).setTurn
    (some { t with copy := some copy })
  (u.setPort { u.port with inFlight := some (turnWrite t copy) }).weighDrain t.station

/-- The outcome of a turn's read that is not overtaken, in the order of R80 to R83. -/
def turnOutcome (t : ReplayTurn) (ans : ReadAnswer 8) (s : State) : State :=
  let ended := s.portAnswered.setTurn none
  match ans with
  | .fault =>
    (ended.logError .memFault .replay false (turnReadAddr s.job t.seq) 0#32
      (some t.station)).loseFeed t.station .memory
  | .ok r =>
    if recMatches r t.seq then
      match transform s.shadows.stations[t.station] r with
      | none => ended.travelFault t.station
      | some copy => turnCopy t copy s
    else ended.loseFeed t.station .check

/-- REPLAY_READ_ANSWER (R79 to R83); an overtaken turn ends without effect. -/
def replayReadAnswer (ans : ReadAnswer 8) (s : State) : State :=
  match inFlightFor s .replay, s.replay.turn with
  | true, some t =>
    match t.copy with
    | some _ => s
    | none => if t.marked then s.portAnswered.setTurn none else turnOutcome t ans s
  | true, none => s
  | false, _ => s

/-- A turn's ring write answered OK (R83, R85). -/
def turnWritten (t : ReplayTurn) (copy : Record) (s : State) : State :=
  if s.stations[t.station].feed = .off then s
  else (s.countClamp t.station copy).joinLive t.station

/-- A turn's ring write answered FAULT (R84). -/
def turnWriteFault (t : ReplayTurn) (copy : Record) (s : State) : State :=
  (s.logError .memFault .replay true t.slotAddr copy[0] (some t.station)).loseFeed t.station .memory

/-- REPLAY_WRITE_ANSWER (R83 to R85). -/
def replayWriteAnswer (ans : WriteAnswer) (s : State) : State :=
  match inFlightFor s .replay, s.replay.turn with
  | true, some t =>
    match t.copy with
    | none => s
    | some copy =>
      let ended := s.portAnswered.setTurn none
      match ans with
      | .ok => turnWritten t copy ended
      | .fault => turnWriteFault t copy ended
  | true, none => s
  | false, _ => s

/-- REPLAY_TURN_GRANT (R77). -/
def execReplayTurnGrant (s : State) : Host.Outcome State Fault Refusal := goOn (s.act replayTurnGrant)

/-- REPLAY_READ_ANSWER (R80). -/
def execReplayReadAnswer (ans : Arrived (ReadAnswer 8)) (s : State) :
    Host.Outcome State Fault Refusal := s.actAnswer replayReadAnswer ans

/-- REPLAY_WRITE_ANSWER (R84). -/
def execReplayWriteAnswer (ans : Arrived WriteAnswer) (s : State) :
    Host.Outcome State Fault Refusal := s.actAnswer replayWriteAnswer ans

end Sys2Proof.Machine
end

