-- ==== Sys2Proof/Machine/MemoryPort.lean ====
section
/-! DEFINITION. The memory port arbiter and the status writer (chapters 9 and 10, R186): which requests
stand, the grant, the status writer's snapshot, and the answers to status writes, drain reads and
initialization pass writes. -/

namespace Sys2Proof.Machine

/-! ### The order of a grant (R175, R176) -/

/-- The requesters in the order of a grant: by priority, COMMAND in the fixed order, DRAIN from the
station after the drain position (R175, R176). -/
def grantOrder (s : State) : List Requester :=
  .transit :: .commandJob :: stationOrder.map .commandStation
    ++ .status :: (stationsAfter s.port.drainPos).map .drain ++ [.replay]

/-! ### The transactions (Table 10-1) -/

def recordWrite (origin : Origin) (addr : Word) (r : Record) : MemTxn :=
  ⟨origin, addr, .write (r.toList.map asWhole)⟩

/-- The transit group's next transaction. -/
def transitTxn (s : State) (c : Access) : MemTxn :=
  match c.work, c.txn with
  | .forward addr, .read _ more => ⟨.processor, addr, .read (more.val + 1)⟩
  | .forward addr, .write t => ⟨.processor, addr, .write (txnWords t)⟩
  | .scan got, _ => ⟨.table, descAddr s got.length, .read 2⟩
  | .detail index _ _, _ => ⟨.table, descAddr s index.toNat + 8#32, .read 2⟩
  | .journalWrite _, _ => recordWrite .journal (frontierAddr s.job) s.job.holders
  | .postWrite _ addr copy _, _ => recordWrite .post addr copy

/-- Put a transaction on the port. -/
def State.carry (s : State) (r : Requester) (t : MemTxn) : State :=
  s.setPort { s.port with inFlight := some ⟨r, t⟩ }

/-! ### The status writer's grant (R163, R164) -/

/-- The record to write: the summary if it is marked, else the first marked one in the cycle after
the last chosen; with its place in the cycle. -/
def chooseRecord (w : Writer) : Option (RecordId × Fin 8) :=
  if w.marks.summary then some (.summary, w.position)
  else
    let p := w.position
    ([p + 1, p + 2, p + 3, p + 4, p + 5, p + 6, p + 7, p].find? fun i =>
      w.marks.get (cycleRecord i)).map fun i => (cycleRecord i, i)

def recordAddr (s : State) (r : RecordId) : Word := pageBase s + BitVec.ofNat 32 (recordOffset r)

/-- Begin the write of a status record (R163, R164): its mark is cleared, its owed set moves into the
write, the snapshot is taken; a 64-byte record holds the port for its second half. -/
def beginRecord (r : RecordId) (s : State) : State :=
  let upper := (recordUpper s r).map fun u => (recordAddr s r + 32#32, u)
  let w := s.writer
  let t := s.setWriter { w with
    marks := w.marks.set r false
    owed := w.owed.set r 0#32
    write := some ⟨some r, w.owed.get r, upper⟩ }
  (t.setPort { t.port with hold := if upper.isSome then some .status else none }).carry .status
    (recordWrite .status (recordAddr s r) (recordLower s r))

/-- The status writer's grant after the pass. -/
def grantStatus (s : State) : State :=
  match chooseRecord s.writer with
  | some (r, p) => beginRecord r (s.setWriter { s.writer with position := p })
  | none => s

/-! ### The initialization pass (R186) -/

/-- What write i of the pass writes. -/
inductive PassWrite where
  | table (i : Nat)
  | stationBlock (k : StationId) (upper : Bool)
  | jobBlock (upper : Bool)
  | record (r : RecordId)
  | zeroArea (i : Nat)

/-- The order of the pass (R186): 16 writes of the table, 12 of the station control blocks, 2 of the
job control block, 31 of the status area above the summary, and the summary. The second half of a
64-byte status record follows its first in the held sequence. -/
def passWrite (i : Nat) : PassWrite :=
  if i < 16 then .table i
  else if i < 28 then .stationBlock (Fin.ofNat 6 ((i - 16) / 2)) (i % 2 == 1)
  else if i < 30 then .jobBlock (i % 2 == 1)
  else if i < 32 then .record .job
  else if i < 44 then .record (.station (Fin.ofNat 6 ((i - 32) / 2)))
  else if i = 44 then .record .errorLog
  else if i < 61 then .zeroArea i
  else .record .summary

def lastPassWrite : Nat := 61

/-- Half of a control block. -/
def blockHalf (b : Block) (upper : Bool) : Record :=
  if upper then #v[b[8], b[9], b[10], b[11], b[12], b[13], b[14], b[15]]
  else #v[b[0], b[1], b[2], b[3], b[4], b[5], b[6], b[7]]

/-- A pass write that is not a status record: origin STATUS, no record, nothing owed. -/
def beginPlain (offset : Nat) (r : Record) (s : State) : State :=
  (s.setWriter { s.writer with write := some ⟨none, 0#32, none⟩ }).carry .status
    (recordWrite .status (pageBase s + BitVec.ofNat 32 offset) r)

/-- The bits that the pass itself owes to a record: bit 18 to the error log when it is full, bit 20
to the summary (R186). -/
def passOwed (s : State) (r : RecordId) : Word :=
  match r with
  | .errorLog => if s.log.isSome then errorLoggedBit else 0#32
  | .summary => passCompleteBit
  | .job => 0#32
  | .station _ => 0#32

/-- The grant of the pass's write i. -/
def grantPass (i : Nat) (s : State) : State :=
  match passWrite i with
  | .table i => beginPlain (32 * i) zeroRecord s
  | .stationBlock k upper =>
    beginPlain (0x200 + 0x40 * k.val + if upper then 32 else 0)
      (blockHalf s.shadows.stations[k] upper) s
  | .jobBlock upper =>
    beginPlain (0x380 + if upper then 32 else 0) (blockHalf s.shadows.job upper) s
  | .record r => beginRecord r (s.owe r (passOwed s r))
  | .zeroArea i => beginPlain (0x420 + 32 * (i - 30)) zeroRecord s

/-! ### The grant (R175) -/

/-- Grant the request of one requester: the transaction goes to memory with its origin. -/
def grantTo (r : Requester) (s : State) : State :=
  match r with
  | .transit =>
    match s.proc.current with
    | some c => s.carry .transit (transitTxn s c)
    | none => s
  | .commandJob =>
    match s.job.opening with
    | some (index, _) => s.carry .commandJob ⟨.command, descAddr s index.toNat, .read 4⟩
    | none => s
  | .commandStation k =>
    match s.stations[k].progress with
    | .attaching index _ =>
      s.carry (.commandStation k) ⟨.command, descAddr s index.toNat, .read 4⟩
    | .idle => s
    | .releasing => s
  | .status =>
    match s.boot.pass with
    | some i => grantPass i s
    | none => grantStatus s
  | .drain k =>
    match s.links[k].drain with
    | some d => (s.setPort { s.port with drainPos := k }).carry (.drain k) ⟨.drain, d.addr, .read 8⟩
    | none => s
  | .replay =>
    match s.replay.turn with
    | some t =>
      (s.setPort { s.port with hold := some .replay }).carry .replay
        ⟨.replay, turnReadAddr s.job t.seq, .read 8⟩
    | none => s

/-- The request competes at the grant (R175): it stands, and it has not come just after the grant. -/
def competes (s : State) (r : Requester) : Bool := standing s r && !s.port.late.contains r

/-- The request that a grant chooses (R175): the first that competes, in the order of R175 and R176;
where none does, the first that stands, which has come to a free and idle port. -/
def chosen (s : State) : Option Requester :=
  ((grantOrder s).find? (competes s)).or ((grantOrder s).find? (standing s))

/-- ARBITER_GRANT (R175). A request that came just after an earlier grant has waited for this one. -/
def arbiterGrant (s : State) : State :=
  if portFree s then
    match chosen s with
    | some r => grantTo r (s.setPort { s.port with late := [] })
    | none => s
  else s

/-! ### The answers to status writes (R165, R186) -/

/-- Pending bits owed to a write that has ended with OK are set (R165, R166). -/
def setPendingBits (bits : Word) (s : State) : State :=
  s.setWriter { s.writer with pending := s.writer.pending ||| bits }

/-- The status write has ended; the port is free. -/
def endStatusWrite (s : State) : State :=
  s.portAnswered.setWriter { s.writer with write := none }

/-- The second half of a 64-byte record is granted at once in its hold (R164, R177, log 22). -/
def secondHalf (w : StatusWrite) (addr : Word) (r : Record) (s : State) : State :=
  (s.setWriter { s.writer with write := some { w with upper := none } }).carry .status
    (recordWrite .status addr r)

/-- The station of a status record, for the log (R170). -/
def recordStation : Option RecordId → Option StationId
  | some (.station k) => some k
  | some .summary => none
  | some .errorLog => none
  | some .job => none
  | none => none

/-- The first data word of a transaction (R170). -/
def txnFirstData (t : MemTxn) : Word :=
  match t.op with
  | .write (w :: _) => w.data
  | .write [] => 0#32
  | .read _ => 0#32

/-- A status record's write has faulted: its owed set returns and it is marked again (R165). -/
def returnOwed (w : StatusWrite) (s : State) : State :=
  match w.record with
  | some r => (s.owe r w.owed).mark r
  | none => s

/-- A status write answered FAULT ends, and is logged with the faulting transaction (R165, R186). -/
def statusFault (w : StatusWrite) (t : MemTxn) (s : State) : State :=
  (returnOwed w (endStatusWrite s)).logError .memFault .status true t.addr (txnFirstData t)
    (recordStation w.record)

/-- The status write that the port carries, with its transaction. -/
def statusInFlight (s : State) : Option (StatusWrite × MemTxn) :=
  match s.port.inFlight, s.writer.write with
  | some ⟨.status, t⟩, some w => some (w, t)
  | some ⟨.status, _⟩, none => none
  | some ⟨.transit, _⟩, _ => none
  | some ⟨.commandJob, _⟩, _ => none
  | some ⟨.commandStation _, _⟩, _ => none
  | some ⟨.drain _, _⟩, _ => none
  | some ⟨.replay, _⟩, _ => none
  | none, _ => none

/-- STATUS_WRITE_ANSWER (R164, R165). -/
def statusWriteAnswer (ans : WriteAnswer) (s : State) : State :=
  match s.boot.pass, statusInFlight s with
  | none, some (w, t) =>
    match ans, w.upper with
    | .ok, some (addr, r) => secondHalf w addr r s
    | .ok, none => setPendingBits w.owed (endStatusWrite s)
    | .fault, _ => statusFault w t s
  | none, none => s
  | some _, _ => s

/-- The pass goes on with write i, or ends after the summary (R187). -/
def passGoesOn (i : Nat) (s : State) : State :=
  if lastPassWrite < i then { s with boot := { s.boot with pass := none }, taking := true }
  else { s with boot := { s.boot with pass := some i } }

/-- INIT_WRITE_ANSWER (R186, R187): a first half answered FAULT ends its record's write, so the
second half is not made (log 13). -/
def initWriteAnswer (ans : WriteAnswer) (s : State) : State :=
  match s.boot.pass, statusInFlight s with
  | some i, some (w, t) =>
    match ans, w.upper with
    | .ok, some (addr, r) => passGoesOn (i + 1) (secondHalf w addr r s)
    | .ok, none => passGoesOn (i + 1) (setPendingBits w.owed (endStatusWrite s))
    | .fault, some _ => passGoesOn (i + 2) (statusFault w t s)
    | .fault, none => passGoesOn (i + 1) (statusFault w t s)
  | some _, none => s
  | none, _ => s

/-! ### The answers to drain reads (R112, R113) -/

/-- The drain read of station k has been answered. -/
def endDrain (k : StationId) (s : State) : State :=
  s.portAnswered.setLink k { s.links[k] with drain := none }

/-- The staging buffer is left holding s marked spoiled, if send still equals s (R112). -/
def spoil (k : StationId) (seq : Seq) (s : State) : State :=
  if s.stations[k].send = seq then s.setLink k { s.links[k] with staging := .spoiled seq } else s

/-- The outcome of a drain read that is not marked (R112). -/
def drainOutcome (k : StationId) (d : DrainRead) (ans : ReadAnswer 8) (s : State) : State :=
  match ans with
  | .ok r =>
    if recMatches r d.seq then s.setLink k { s.links[k] with staging := .copy d.seq r }
    else spoil k d.seq (s.requestFault k .ringCheck)
  | .fault =>
    spoil k d.seq
      ((s.logError .memFault .drain false d.addr 0#32 (some k)).requestFault k .memory)

/-- DRAIN_READ_ANSWER (R112, R113): a marked read is discarded; at the answer the condition of R111
is weighed afresh. -/
def drainReadAnswer (ans : ReadAnswer 8) (s : State) : State :=
  match s.port.inFlight with
  | some ⟨.drain k, _⟩ =>
    match s.links[k].drain with
    | some d =>
      if d.marked then (endDrain k s).weighDrain k
      else (drainOutcome k d ans (endDrain k s)).weighDrain k
    | none => s
  | some ⟨.transit, _⟩ => s
  | some ⟨.commandJob, _⟩ => s
  | some ⟨.commandStation _, _⟩ => s
  | some ⟨.status, _⟩ => s
  | some ⟨.replay, _⟩ => s
  | none => s

/-! ### The rows -/

/-- ARBITER_GRANT (R175). -/
def execArbiterGrant (s : State) : Host.Outcome State Fault Refusal :=
  goOn (s.act arbiterGrant)

/-- STATUS_WRITE_ANSWER (R165). -/
def execStatusWriteAnswer (ans : Arrived WriteAnswer) (s : State) :
    Host.Outcome State Fault Refusal := s.actAnswer statusWriteAnswer ans

/-- DRAIN_READ_ANSWER (R112). -/
def execDrainReadAnswer (ans : Arrived (ReadAnswer 8)) (s : State) :
    Host.Outcome State Fault Refusal := s.actAnswer drainReadAnswer ans

/-- INIT_WRITE_ANSWER (R186). -/
def execInitWriteAnswer (ans : Arrived WriteAnswer) (s : State) :
    Host.Outcome State Fault Refusal := s.actAnswer initWriteAnswer ans

end Sys2Proof.Machine
end

