-- ==== Sys2Proof/Machine/StartUp.lean ====
section
/-! DEFINITION. Start-up and resets (chapter 11): the two resets and their ends, the boot read, the
boot record and the strap defaults, the start of the initialization pass. -/

namespace Sys2Proof.Machine

/-! ### Power-on reset (R181) -/

/-- A link's power-on values (R127, Table 6-5); READY is a pin and stays (log 7). No frame is being
received, so the first character completed after the reset begins one, though it may belong to a frame
that its drive had begun before (log 37). -/
def poweredLink (now : Nat) (l : Link) : Link := { Link.reset with ready := l.ready, gapFrom := now }

/-- The six links after an operation on each. -/
def mapLinks (v : Vector Link 6) (f : StationId → Link → Link) : Vector Link 6 :=
  #v[f 0 v[0], f 1 v[1], f 2 v[2], f 3 v[3], f 4 v[4], f 5 v[5]]

/-- POWER_ON_RESET: the assertion of PORST_N puts every block in its power-on values, cuts off any
frame, clears the latched boot record and empties the error log (R181). The queue, the model's
time and the pins stay. -/
def powerOnReset (s : State) : State :=
  { State.reset with
    now := s.now
    pending := s.pending
    busrst := s.busrst
    links := mapLinks s.links (fun _ l => poweredLink s.now l) }

/-- A monitor takes its first level, with no qualified change (R129, R134). -/
def firstLevel (level : Bool) : Monitor := ⟨level, level, none⟩

def firstLevels (b : BitVec 6) : Vector Monitor 6 :=
  #v[firstLevel (b.getLsbD 0), firstLevel (b.getLsbD 1), firstLevel (b.getLsbD 2),
     firstLevel (b.getLsbD 3), firstLevel (b.getLsbD 4), firstLevel (b.getLsbD 5)]

/-- PORST_NEGATION: the monitors take their first levels, the straps are sampled, and the boot loader
enters WAITING (R181, R183). The gaps of the links are counted from here (log 12). -/
def porstNegation (v : InputLevels) (s : State) : State :=
  if s.porst then
    { s with
      porst := false
      breaks := firstLevels v.breaks
      stop := firstLevel v.stopHigh
      links := mapLinks s.links (fun _ l => { l with gapFrom := s.now })
      boot := { s.boot with
        state := .waiting
        waitingSince := s.now
        bus := v.bus
        strapA := v.strapA
        strapB := v.strapB } }
  else s

/-! ### Bus reset (R182, R188) -/

/-- The control-frame slot after a bus reset (R188): a HALT pending stays, an unbegun GO is withdrawn
and nothing is owed, and a station whose drive was RUNNING is owed a HALT with reason 0x20. -/
def busResetSlot (st : Station) (l : Link) : ControlSlot :=
  match l.slot with
  | .halt r => .halt r
  | .go => .empty
  | .empty => if st.drive = .running then .halt 0x20#8 else .empty

/-- A frame being received is dropped: what still comes of it is dropped to its end (R128, log 14).
A frame of which no character is complete is not being received yet (R103, log 37). -/
def busResetRx : Option RxFrame → Option RxFrame
  | some f => some { f with mode := .dropped }
  | none => none

/-- A link's bus reset values (R128): as Table 6-5, but for the frame in transmission, the HALT
pending or owed, and the line settings while that work lasts; READY is a pin (log 7). -/
def busResetLink (now : Nat) (st : Station) (l : Link) : Link :=
  let slot := busResetSlot st l
  let work := l.tx.isSome || slot != .empty
  { Link.reset with
    line := if work then l.line else LineSettings.reset
    resetWork := work
    tx := l.tx.map Tx.void
    gapFrom := now
    slot := slot
    ready := l.ready
    rx := busResetRx l.rx }

/-- Bus reset values of every block (R182): kept are the boot loader, the error log, the input
monitors and the links' transmit work. -/
def busResetValues (s : State) : State :=
  { s with
    busrst := true
    taking := false
    boot := { s.boot with pass := none }
    proc := ⟨none, none⟩
    cache := Cache.reset
    shadows := Shadows.reset
    job := Job.reset
    stations := Vector.replicate 6 Station.reset
    links := mapLinks s.links (fun k l => busResetLink s.now s.stations[k] l)
    gate := Gate.reset
    replay := Replay.reset
    port := Port.reset
    writer := Writer.reset }

/-- BUS_RESET: the assertion of BUSRST_N (R182). Under PORST_N only the line itself is followed; an
asserted line cannot be asserted again (log 27). -/
def busReset (s : State) : State :=
  if s.busrst then s else if s.porst then { s with busrst := true } else busResetValues s

/-! ### The initialization pass begins (R182, R186) -/

/-- The pass begins once the boot read is DONE and BUSRST_N is negated. -/
def startPass (s : State) : State :=
  if s.boot.state = .done ∧ s.busrst = false then { s with boot := { s.boot with pass := some 0 } }
  else s

/-- BUSRST_NEGATION (R182, R186). -/
def busrstNegation (s : State) : State :=
  if s.busrst then
    if s.porst then { s with busrst := false } else startPass { s with busrst := false }
  else s

/-! ### The boot read (R183 to R185) -/

/-- BOOT_ATTEMPT (R183): the bus is free within 100 ms of the entry into WAITING, and one attempt begins
when it is. -/
def bootAttempt (s : State) : State :=
  match s.boot.state, busFreeInTime s.boot.bus with
  | .waiting, some t =>
    let u := s.reach (s.boot.waitingSince + t)
    { u with boot := { u.boot with state := .reading, bytes := [], drives := bootExchange } }
  | .waiting, none => s
  | .idle, _ => s
  | .reading, _ => s
  | .done, _ => s

/-- What the loader makes on the boot bus from here on. -/
def driving (acts : List BusAct) (s : State) : State := { s with boot := { s.boot with drives := acts } }

/-- The boot loader enters DONE with the regions it latches (R183, R185). -/
def bootDone (r : Regions) (s : State) : State :=
  startPass { s with boot := { s.boot with state := .done, latched := some r } }

/-- The strap defaults are taken (R185). -/
def takeStraps (s : State) : State := bootDone (strapRegions s.boot.strapB s.boot.strapA) s

/-- BOOT_BAD: origin BOOT, direction READ, the cause in the address field, boot record bytes 0 to 3
in the data word, station NONE (R185). -/
def logBootBad (cause : BootCause) (s : State) : State :=
  s.logError .bootBad .boot false (bootCauseCode cause) (bootFirstWord s.boot.bytes) none

/-- The bytes read so far in the attempt. -/
def withBytes (got : List Byte) (s : State) : State := { s with boot := { s.boot with bytes := got } }

/-- BOOT_BUS_BUSY_TIMEOUT: the bus has not become free within 100 ms of the latest entry into WAITING
(R183). -/
def bootBusBusyTimeout (s : State) : State :=
  match s.boot.state, busFreeInTime s.boot.bus with
  | .waiting, none =>
    takeStraps (logBootBad .busBusy (s.reach (s.boot.waitingSince + Config.bootBusWait)))
  | .waiting, some _ => s
  | .idle, _ => s
  | .reading, _ => s
  | .done, _ => s

/-- BOOT_DEVICE_NACK: STOP is sent and nothing is logged (R184). -/
def bootDeviceNack (s : State) : State :=
  if s.boot.state = .reading then takeStraps (driving [.stop] s) else s

/-- BOOT_ADDRESS_NACK: STOP is sent (R184). -/
def bootAddressNack (s : State) : State :=
  if s.boot.state = .reading then takeStraps (logBootBad .addressNack (driving [.stop] s)) else s

/-- BOOT_STRETCH_TIMEOUT, with the bytes read before it: both lines are released (R184). -/
def bootStretchTimeout (got : List Byte) (s : State) : State :=
  if s.boot.state = .reading then takeStraps (logBootBad .stretch (driving [] (withBytes got s))) else s

/-- BOOT_ARBITRATION_LOST (R184): both lines are released; below 4 attempts counted, the bytes are
discarded and the loader waits again; otherwise the strap defaults. -/
def bootArbitrationLost (lost : LostAttempt) (s : State) : State :=
  if s.boot.state = .reading then
    if s.boot.attempts < 4 then
      { s with boot := { s.boot with
          state := .waiting
          attempts := s.boot.attempts + 1
          bytes := []
          waitingSince := s.now
          bus := lost.bus
          drives := [] } }
    else takeStraps (logBootBad .arbitration (driving [] (withBytes lost.got s)))
  else s

/-- BOOT_READ_END (R185): STOP has been sent and the lines are released; the record is tested and latched, or the strap defaults are taken with the
cause of the first failing test logged. -/
def bootReadEnd (b : Vector Byte 16) (s : State) : State :=
  if s.boot.state = .reading then
    let t := driving [] (withBytes b.toList s)
    match bootFailure b with
    | none => bootDone (bootRegions b) t
    | some cause => takeStraps (logBootBad cause t)
  else s

/-! ### The rows -/

/-- POWER_ON_RESET (R181). -/
def execPowerOnReset (s : State) : Host.Outcome State Fault Refusal := goOn (powerOnReset s)

/-- PORST_NEGATION (R181). -/
def execPorstNegation (levels : InputLevels) (s : State) : Host.Outcome State Fault Refusal :=
  goOn (porstNegation levels s)

/-- BUS_RESET (R182). -/
def execBusReset (s : State) : Host.Outcome State Fault Refusal := goOn (busReset s)

/-- BUSRST_NEGATION (R186). -/
def execBusrstNegation (s : State) : Host.Outcome State Fault Refusal := goOn (busrstNegation s)

/-- BOOT_ATTEMPT (R183). -/
def execBootAttempt (s : State) : Host.Outcome State Fault Refusal := goOn (s.act bootAttempt)

/-- BOOT_BUS_BUSY_TIMEOUT (R183). -/
def execBootBusBusyTimeout (s : State) : Host.Outcome State Fault Refusal :=
  goOn (s.act bootBusBusyTimeout)

/-- BOOT_DEVICE_NACK (R184). -/
def execBootDeviceNack (s : State) : Host.Outcome State Fault Refusal := goOn (s.act bootDeviceNack)

/-- BOOT_ADDRESS_NACK (R184). -/
def execBootAddressNack (s : State) : Host.Outcome State Fault Refusal := goOn (s.act bootAddressNack)

/-- BOOT_STRETCH_TIMEOUT (R184). -/
def execBootStretchTimeout (got : List Byte) (s : State) : Host.Outcome State Fault Refusal :=
  goOn (s.act (bootStretchTimeout got))

/-- BOOT_ARBITRATION_LOST (R184). -/
def execBootArbitrationLost (lost : LostAttempt) (s : State) : Host.Outcome State Fault Refusal :=
  goOn (s.act (bootArbitrationLost lost))

/-- BOOT_READ_END (R185). -/
def execBootReadEnd (bytes : Vector Byte 16) (s : State) : Host.Outcome State Fault Refusal :=
  goOn (s.act (bootReadEnd bytes))

end Sys2Proof.Machine
end

