-- ==== Sys2Proof/Machine/ControlPage.lean ====
section
/-! DEFINITION. Processor writes into the control page (R142, R143, R157 to R161, R167, R168): what
each word's area decides, how the words' decisions combine, and what a taken word does. -/

namespace Sys2Proof.Machine

/-! ### Where a word lies (Table 12-4) -/

/-- The area of a word of the control page. -/
inductive PageWord where
  | table (index : BitVec 5)
  | station (k : StationId) (w : Fin 16)
  | job (w : Fin 16)
  | unused
  | status

/-- The area of the word at a byte offset of the control page. -/
def pageWord (offset : Nat) : PageWord :=
  if offset < 0x200 then .table (BitVec.ofNat 5 (offset / 16))
  else if offset < 0x380 then
    .station (Fin.ofNat 6 ((offset - 0x200) / 64)) (Fin.ofNat 16 (offset % 64 / 4))
  else if offset < 0x3C0 then .job (Fin.ofNat 16 (offset % 64 / 4))
  else if offset < 0x400 then .unused
  else .status

/-! ### What each word decides -/

/-- What the control-page logic decides about one word (R142, R157). -/
inductive Decision where
  | taken
  | retry
  | refused (kind : ErrorKind)
  deriving DecidableEq, Repr

/-- The latched set (R143). -/
def isLatched (s : State) (index : BitVec 5) : Bool :=
  s.job.journal == some index || stationOrder.any (fun k => s.stations[k].ring == some index)

/-- The index is named by an ATTACH in progress. -/
def attachNames (st : Station) (index : BitVec 5) : Bool :=
  match st.progress with
  | .attaching i _ => i == index
  | .idle => false
  | .releasing => false

/-- The index is named by an OPEN or an ATTACH in progress (R143). -/
def isBeingRead (s : State) (index : BitVec 5) : Bool :=
  (match s.job.opening with | some (i, _) => i == index | none => false)
    || stationOrder.any (fun k => attachNames s.stations[k] index)

/-- Words 0 to 12 of a station control block carry locked fields (R159, Table 12-5). -/
def lockedWord (w : Fin 16) : Bool := decide (w.val ≤ 12)

/-- The decision on one word by its area (R143, R157, R159 to R161). DESIGN CHOICE (log 28): a word of a
descriptor that is both latched and named by an OPEN or ATTACH in progress is refused with
CONFIG_LOCKED, since R143 gives that and RETRY without an order. -/
def areaDecision (s : State) : PageWord → Decision
  | .table index =>
    if isLatched s index then .refused .configLocked
    else if isBeingRead s index then .retry
    else .taken
  | .station k w =>
    if lockedWord w then
      if s.stations[k].feed = .off then .taken else .refused .configLocked
    else if w = 15 then
      if stationBusy s.stations[k] then .retry else .taken
    else .taken
  | .job w =>
    if w = 0 then
      if s.job.state = .noJob then .taken else .refused .configLocked
    else if w = 15 then
      if jobBusy s.job then .retry else .taken
    else .taken
  | .unused => .taken
  | .status => .refused .statusWrite

/-- A word that is not whole is refused with PARTIAL in every area (R142). -/
def wordDecision (s : State) (offset : Nat) (w : WriteWord) : Decision :=
  if wholeWord w then areaDecision s (pageWord offset) else .refused .partialWord

/-- The decisions on the words of a write, in ascending address order. -/
def decisions (s : State) (offset : Nat) : List WriteWord → List Decision
  | [] => []
  | w :: ws => wordDecision s offset w :: decisions s (offset + 4) ws

/-- The outcome of the write on all its words together: any refusal, the lowest address's kind
first; else any RETRY; else taken (R142). -/
def combine (ds : List Decision) : Decision :=
  match ds.find? (fun d => d != .taken && d != .retry) with
  | some d => d
  | none => if ds.any (fun d => d == .retry) then .retry else .taken

/-! ### What a taken word does -/

/-- A whole table write empties the window cache (R143). -/
def invalidateCache (s : State) : State := { s with cache := Cache.reset }

def setStationShadow (s : State) (k : StationId) (w : Fin 16) (v : Word) : State :=
  { s with shadows := { s.shadows with
      stations := s.shadows.stations.set k (s.shadows.stations[k].set w v) } }

def setJobShadow (s : State) (w : Fin 16) (v : Word) : State :=
  { s with shadows := { s.shadows with job := s.shadows.job.set w v } }

/-- A taken line-setting write is copied into the link controller, unless the link is finishing the
work of a bus reset (R101, R128). -/
def copyLine (k : StationId) (s : State) : State :=
  if s.links[k].resetWork then s
  else s.setLink k { s.links[k] with line := cbLine s.shadows.stations[k] }

/-- A write of the ack timeout restarts a running ack timer with the new value (R116). -/
def restartAckTimer (k : StationId) (s : State) : State :=
  match s.links[k].ackTimer with
  | some _ =>
    s.setLink k { s.links[k] with
      ackTimer := some ⟨s.now, cbAckTimeout s.shadows.stations[k]⟩ }
  | none => s

/-- A taken word of station block k (R101, R116, R130, R158, R161). Word 14 carries the filter time,
the polarity and the ack timeout; a change that has already run for the filter time in force before
the write has qualified under the polarity in force before it (log 33). Word 15 starts the command it
names. -/
def applyStationWord (k : StationId) (w : Fin 16) (v : Word) (s : State) : State :=
  let t := setStationShadow (if w = 14 then s.breakDue k else s) k w v
  if w = 12 then copyLine k t
  else if w = 14 then (restartAckTimer k t).breakDue k
  else if w = 15 then startStationCommand k v t
  else t

/-- The acknowledge word clears the set pending bits it names and, when it clears bit 18, empties
the error log (R167, R171). -/
def acknowledge (v : Word) (s : State) : State :=
  let cleared := v &&& s.writer.pending
  let t := s.setWriter { s.writer with pending := s.writer.pending &&& ~~~cleared }
  if cleared &&& errorLoggedBit ≠ 0#32 then { t with log := none } else t

/-- A taken word of the job control block (R160). -/
def applyJobWord (w : Fin 16) (v : Word) (s : State) : State :=
  let t := setJobShadow s w v
  if w = 2 then acknowledge v t
  else if w = 15 then startJobCommand v t
  else t

/-- A taken word, by its area. -/
def applyWord (v : Word) (s : State) : PageWord → State
  | .table _ => invalidateCache s
  | .station k w => applyStationWord k w v s
  | .job w => applyJobWord w v s
  | .unused => s
  | .status => s

/-- The taken words are applied in ascending address order (R142, R161). -/
def applyWords (offset : Nat) : List WriteWord → State → State
  | [], s => s
  | w :: ws, s => applyWords (offset + 4) ws (applyWord w.data s (pageWord offset))

/-- The offset of an address in the control page. -/
def pageOffset (a : Word) : Nat := a.toNat % pageSize

/-- A write in the control page (R142): decided on all its words together, applied, then forwarded
to memory unchanged as one transaction. -/
def pageWrite (t : WriteTxn) (s : State) : State :=
  let a := byteAddr t.addr
  match combine (decisions s (pageOffset a) (txnWords t)) with
  | .refused e => s.refuse e (.write t)
  | .retry => s.answer .retry
  | .taken => (applyWords (pageOffset a) (txnWords t) s).startWork (.write t) (.forward a)

end Sys2Proof.Machine
end

