-- ==== Sys2Proof/Machine/Transit.lean ====
section
/-! DEFINITION. The processor port, the transit path and the window cache (chapter 8): presenting a
transaction, the cache, the descriptor search, acting on a window, and the answers. -/

namespace Sys2Proof.Machine

/-! ### The cache -/

/-- The entry that matches an address, with its number (R147). -/
def cacheHit (c : Cache) (a : Word) : Option (Fin 8 × CacheEntry) :=
  [(0 : Fin 8), 1, 2, 3, 4, 5, 6, 7].findSome? fun i =>
    match c.entries[i] with
    | some e => if inRange e.desc.w0 e.desc.w1 a then some (i, e) else none
    | none => none

/-- An entry becomes the most recently used; the others keep their order (R147, R150). -/
def Cache.touch (c : Cache) (i : Fin 8) : Cache :=
  { c with recency := i :: c.recency.filter (fun j => j != i) }

def lowestInvalid (c : Cache) : Option (Fin 8) :=
  [(0 : Fin 8), 1, 2, 3, 4, 5, 6, 7].find? fun i => c.entries[i].isNone

def entryPriority (c : Cache) (i : Fin 8) : Nat :=
  match c.entries[i] with
  | some e => descPriority e.desc
  | none => 0

/-- The lowest priority among the entries of a recency order. -/
def lowestPriority (c : Cache) : Nat :=
  c.recency.foldl (fun p i => min p (entryPriority c i)) 2

/-- The victim: the least recently used of the entries of the lowest priority present (R150). -/
def victim (c : Cache) : Fin 8 :=
  (c.recency.reverse.find? fun i => entryPriority c i == lowestPriority c).getD 0

/-- A usable descriptor is placed in the cache (R150). -/
def Cache.fill (c : Cache) (e : CacheEntry) : Cache :=
  let i := (lowestInvalid c).getD (victim c)
  Cache.touch { c with entries := c.entries.set i (some e) } i

/-! ### Acting on a window -/

/-- The access is forwarded to memory at an address (R141, R152). -/
def forwardTo (t : ProcTxn) (addr : Word) (s : State) : State := s.startWork t (.forward addr)

/-- The translated address of a PASS window: the translate base plus the offset of A within the
window (R152). -/
def translated (d : Descriptor) (a : Word) : Word := d.w3 + (a - d.w1)

/-- The window is the journal latched by the job (R153). -/
def isLatchedJournal (s : State) (index : BitVec 5) : Bool :=
  s.job.state != .noJob && s.job.journal == some index

/-- A PASS window acts by its access field (R152): NONE 0, RO 1, RW 2. -/
def actOnPass (t : ProcTxn) (d : Descriptor) (s : State) : State :=
  match descAccess d, t.isWrite with
  | 0, _ => s.refuse .access t
  | 1, true => s.refuse .access t
  | _, _ => forwardTo t (translated d (byteAddr t.addr)) s

/-- The access is handled by its window (Table 8-2, R152 to R154). -/
def actOnWindow (t : ProcTxn) (index : BitVec 5) (d : Descriptor) (s : State) : State :=
  match descKind d.w0, t with
  | some .pass, _ => actOnPass t d s
  | some .journal, .read a _ => forwardTo t (byteAddr a) s
  | some .journal, .write w => if isLatchedJournal s index then journalWrite w s else s.refuse .noJob t
  | some .ring, .read a _ => forwardTo t (byteAddr a) s
  | some .ring, .write _ => s.refuse .access t
  | none, _ => s.refuse .badDesc t

/-! ### Presenting a transaction -/

/-- The bytes of a transaction all lie in one aligned 32-byte block (R139). -/
def inOneBlock (t : ProcTxn) : Bool := decide ((byteAddr t.addr).toNat % 32 + 4 * t.count ≤ 32)

def inPage (r : Regions) (a : Word) : Bool :=
  decide (r.page.toNat ≤ a.toNat ∧ a.toNat < r.page.toNat + pageSize)

def inWindowSpace (r : Regions) (a : Word) : Bool :=
  decide (r.window.toNat ≤ a.toNat ∧ a.toNat < r.window.toNat + windowSpaceSize r.sizeCode)

/-- A transaction in window space: a hit acts at once, a miss starts the scan (R147, R148). -/
def windowAccess (t : ProcTxn) (s : State) : State :=
  match cacheHit s.cache (byteAddr t.addr) with
  | some (i, e) => actOnWindow t e.index e.desc { s with cache := s.cache.touch i }
  | none => s.startWork t (.scan [])

/-- A transaction in the control page: a read is forwarded, a write examined (R142). -/
def pageAccess (t : ProcTxn) (s : State) : State :=
  match t with
  | .read a _ => forwardTo t (byteAddr a) s
  | .write w => pageWrite w s

/-- The regions latched from the boot record, as they classify an address (R140). -/
def routed (t : ProcTxn) (s : State) : State :=
  match s.boot.latched with
  | some r =>
    if inPage r (byteAddr t.addr) then pageAccess t s
    else if inWindowSpace r (byteAddr t.addr) then windowAccess t s
    else forwardTo t (byteAddr t.addr) s
  | none => forwardTo t (byteAddr t.addr) s

/-- The processor presents a transaction (R138, R139). While the port holds another one the processor
presents none, so nothing happens (log 2); until the pass has ended the answer is RETRY. -/
def present (t : ProcTxn) (s : State) : State :=
  if s.proc.current.isSome then s
  else if !s.taking then s.answer .retry
  else if !inOneBlock t then s.refuse .burstCross t
  else routed t s

/-! ### The descriptor search -/

/-- Every descriptor search counts when it ends (R151). -/
def countSearch (s : State) : State :=
  s.setJob { s.job with searches := satInc s.job.searches }

/-- The valid descriptor of lowest index whose range holds A, from the words scanned (R148). -/
def chosenFrom (a : Word) : Nat → List (Word × Word) → Option (Nat × Word × Word)
  | _, [] => none
  | i, (w0, w1) :: rest =>
    if descValid w0 && inRange w0 w1 a then some (i, w0, w1) else chosenFrom a (i + 1) rest

/-- Some other valid descriptor's range overlaps the chosen one's (R148). -/
def overlapsOther (chosen : Nat) (c0 c1 : Word) : Nat → List (Word × Word) → Bool
  | _, [] => false
  | i, (w0, w1) :: rest =>
    (decide (i ≠ chosen) && descValid w0 && rangesOverlap w0 w1 c0 c1)
      || overlapsOther chosen c0 c1 (i + 1) rest

/-- The decision of a complete scan (R148 cases 2 to 4). -/
def scanDecision (t : ProcTxn) (got : List (Word × Word)) (s : State) : State :=
  match chosenFrom (byteAddr t.addr) 0 got with
  | none => (countSearch s).refuse .unmapped t
  | some (i, w0, w1) =>
    if overlapsOther i w0 w1 0 got then (countSearch s).refuse .overlap t
    else s.startWork t (.detail (BitVec.ofNat 5 i) w0 w1)

/-- A table transaction answered FAULT ends the search (R149): logged with origin TABLE and the
address of that transaction, answered ERROR MEM_FAULT. -/
def searchFault (addr : Word) (s : State) : State :=
  ((countSearch s).logError .memFault .table false addr 0#32 none).answer (.error .memFault)

/-- SCAN_READ_ANSWER (R148, R149). -/
def scanReadAnswer (ans : ReadAnswer 2) (s : State) : State :=
  match inFlightFor s .transit, s.proc.current with
  | true, some ⟨t, .scan got⟩ =>
    match ans with
    | .fault => searchFault (descAddr s got.length) s.portAnswered
    | .ok v =>
      let all := got ++ [(v[0], v[1])]
      if all.length < 32 then s.portAnswered.startWork t (.scan all)
      else scanDecision t all s.portAnswered
  | true, some ⟨_, .forward _⟩ => s
  | true, some ⟨_, .detail _ _ _⟩ => s
  | true, some ⟨_, .journalWrite _⟩ => s
  | true, some ⟨_, .postWrite _ _ _ _⟩ => s
  | true, none => s
  | false, _ => s

/-- A search that finds a usable descriptor fills the cache and handles the access (R149, R150). -/
def searchFound (t : ProcTxn) (index : BitVec 5) (d : Descriptor) (s : State) : State :=
  let c := countSearch s
  actOnWindow t index d { c with cache := c.cache.fill ⟨index, d⟩ }

/-- The address of the detail read: words 2 and 3 of the chosen descriptor (R149). -/
def detailAddr (s : State) (index : BitVec 5) : Word := descAddr s index.toNat + 8#32

/-- DETAIL_READ_ANSWER (R149). -/
def detailReadAnswer (ans : ReadAnswer 2) (s : State) : State :=
  match inFlightFor s .transit, s.proc.current with
  | true, some ⟨t, .detail index w0 w1⟩ =>
    match ans with
    | .fault => searchFault (detailAddr s index) s.portAnswered
    | .ok v =>
      let d : Descriptor := ⟨w0, w1, v[0], v[1]⟩
      if descUsable (pageBase s) d then searchFound t index d s.portAnswered
      else (countSearch s.portAnswered).refuse .badDesc t
  | true, some ⟨_, .forward _⟩ => s
  | true, some ⟨_, .scan _⟩ => s
  | true, some ⟨_, .journalWrite _⟩ => s
  | true, some ⟨_, .postWrite _ _ _ _⟩ => s
  | true, none => s
  | false, _ => s

/-! ### The answer to a forwarded access -/

/-- The data of a DONE: for a read the words read (R138, log 24). -/
def readData (t : ProcTxn) (data : List Word) : List Word :=
  match t with
  | .read _ more => data.take (more.val + 1)
  | .write _ => []

/-- FORWARD_ANSWER (R141, R142, R155): DONE, or ERROR MEM_FAULT with the fault logged under the
address the processor presented. -/
def forwardAnswer (ans : ForwardAnswer) (s : State) : State :=
  match inFlightFor s .transit, s.proc.current with
  | true, some ⟨t, .forward _⟩ =>
    match ans with
    | .ok data => s.portAnswered.answer (.done (readData t data))
    | .fault => s.portAnswered.refuse .memFault t
  | true, some ⟨_, .scan _⟩ => s
  | true, some ⟨_, .detail _ _ _⟩ => s
  | true, some ⟨_, .journalWrite _⟩ => s
  | true, some ⟨_, .postWrite _ _ _ _⟩ => s
  | true, none => s
  | false, _ => s

/-! ### The rows -/

/-- A transaction's outcome; under PORST_N it is answered RETRY like any before the pass's end
(R187). -/
def presented (t : ProcTxn) (s : State) : Host.Outcome State Fault Refusal :=
  goOn (report s (present t s))

/-- PROCESSOR_READ (R141). -/
def execProcessorRead (addr : WordAddr) (more : Fin 8) (s : State) :
    Host.Outcome State Fault Refusal := presented (.read addr more) s

/-- PROCESSOR_WRITE (R141, R152); the address decides how it is handled (log 8). -/
def execProcessorWrite (txn : WriteTxn) (s : State) : Host.Outcome State Fault Refusal :=
  presented (.write txn) s

/-- JOURNAL_WINDOW_WRITE (R30); the address decides (log 8). -/
def execJournalWindowWrite (txn : WriteTxn) (s : State) : Host.Outcome State Fault Refusal :=
  presented (.write txn) s

/-- DESCRIPTOR_TABLE_WRITE (R143); the address decides (log 8). -/
def execDescriptorTableWrite (txn : WriteTxn) (s : State) : Host.Outcome State Fault Refusal :=
  presented (.write txn) s

/-- CONTROL_BLOCK_WRITE (R157); the address decides (log 8). -/
def execControlBlockWrite (txn : WriteTxn) (s : State) : Host.Outcome State Fault Refusal :=
  presented (.write txn) s

/-- The word address of a byte offset of the control page. -/
def pageWordAddr (s : State) (offset : Nat) : WordAddr :=
  (pageBase s + BitVec.ofNat 32 offset).extractLsb' 2 30

/-- A write of whole words that ends at a byte offset of the control page with the word `last`. -/
def writeUpTo (s : State) (offset : Nat) (pre : List Word) (last : Word) : WriteTxn :=
  match pre with
  | [] => ⟨pageWordAddr s offset, asWhole last, []⟩
  | p :: ps => ⟨pageWordAddr s (offset - 4 * pre.length), asWhole p, (ps ++ [last]).map asWhole⟩

/-- The offset of word w of station control block k (Table 12-4). -/
def stationBlockOffset (k : StationId) (w : Nat) : Nat := 0x200 + 0x40 * k.val + 4 * w

/-- The offset of word w of the job control block (Table 12-4). -/
def jobBlockOffset (w : Nat) : Nat := 0x380 + 4 * w

/-- The processor writes the command word of station k, after the words before it. -/
def stationCommand (k : StationId) (pre : List Word) (w : Word) (s : State) :
    Host.Outcome State Fault Refusal :=
  presented (.write (writeUpTo s (stationBlockOffset k 15) pre w)) s

/-- The processor writes the job command word, after the words before it. -/
def jobCommand (pre : List Word) (w : Word) (s : State) : Host.Outcome State Fault Refusal :=
  presented (.write (writeUpTo s (jobBlockOffset 15) pre w)) s

/-- BREAK_FILTER_TIME_WRITE (R130): a write of word 14 of block k. -/
def execBreakFilterTimeWrite (k : StationId) (w : Word) (s : State) :
    Host.Outcome State Fault Refusal :=
  presented (.write (writeUpTo s (stationBlockOffset k 14) [] w)) s

/-- BREAK_POLARITY_WRITE (R131): a write of word 14 of block k. -/
def execBreakPolarityWrite (k : StationId) (w : Word) (s : State) :
    Host.Outcome State Fault Refusal :=
  presented (.write (writeUpTo s (stationBlockOffset k 14) [] w)) s

/-- ACK_TIMEOUT_WRITE (R116): a write of word 14 of block k. -/
def execAckTimeoutWrite (k : StationId) (w : Word) (s : State) :
    Host.Outcome State Fault Refusal :=
  presented (.write (writeUpTo s (stationBlockOffset k 14) [] w)) s

/-- ACKNOWLEDGE_WRITE (R167): a write of word 2 of the job control block. -/
def execAcknowledgeWrite (w : Word) (s : State) : Host.Outcome State Fault Refusal :=
  presented (.write (writeUpTo s (jobBlockOffset 2) [] w)) s

/-- INTERRUPT_ENABLE_WRITE (R168): a write of word 1 of the job control block. -/
def execInterruptEnableWrite (w : Word) (s : State) : Host.Outcome State Fault Refusal :=
  presented (.write (writeUpTo s (jobBlockOffset 1) [] w)) s

/-- OPEN (R24). -/
def execOpenJob (pre : List Word) (spare : BitVec 7) (index : BitVec 5) (start : Seq) (s : State) :
    Host.Outcome State Fault Refusal := jobCommand pre (openWord spare index start) s

/-- CLOSE (R26). -/
def execCloseJob (pre : List Word) (arg : BitVec 28) (s : State) : Host.Outcome State Fault Refusal :=
  jobCommand pre (commandWord 2#4 arg) s

/-- Job command codes 3 to 15 (R23). -/
def execJobBadCmd (pre : List Word) (code : BitVec 4) (arg : BitVec 28) (s : State) :
    Host.Outcome State Fault Refusal := jobCommand pre (commandWord code arg) s

/-- ATTACH (R61). -/
def execAttach (k : StationId) (pre : List Word) (spare : BitVec 12) (start : Seq) (s : State) :
    Host.Outcome State Fault Refusal := stationCommand k pre (attachWord spare start) s

/-- DETACH (R64). -/
def execDetach (k : StationId) (pre : List Word) (arg : BitVec 28) (s : State) :
    Host.Outcome State Fault Refusal := stationCommand k pre (commandWord 2#4 arg) s

/-- REATTACH (R65). -/
def execReattach (k : StationId) (pre : List Word) (arg : BitVec 28) (s : State) :
    Host.Outcome State Fault Refusal := stationCommand k pre (commandWord 3#4 arg) s

/-- HOLD (R66). -/
def execHold (k : StationId) (pre : List Word) (arg : BitVec 28) (s : State) :
    Host.Outcome State Fault Refusal := stationCommand k pre (commandWord 4#4 arg) s

/-- RESUME (R67). -/
def execResume (k : StationId) (pre : List Word) (arg : BitVec 28) (s : State) :
    Host.Outcome State Fault Refusal := stationCommand k pre (commandWord 5#4 arg) s

/-- CLEAR (R68). -/
def execClear (k : StationId) (pre : List Word) (arg : BitVec 28) (s : State) :
    Host.Outcome State Fault Refusal := stationCommand k pre (commandWord 6#4 arg) s

/-- RELEASE (R69). -/
def execRelease (k : StationId) (pre : List Word) (arg : BitVec 28) (s : State) :
    Host.Outcome State Fault Refusal := stationCommand k pre (commandWord 7#4 arg) s

/-- Station command codes 8 to 15 (R60). -/
def execStationBadCmd (k : StationId) (pre : List Word) (code : BitVec 4) (arg : BitVec 28)
    (s : State) : Host.Outcome State Fault Refusal := stationCommand k pre (commandWord code arg) s

/-- SCAN_READ_ANSWER (R148). -/
def execScanReadAnswer (ans : Arrived (ReadAnswer 2)) (s : State) :
    Host.Outcome State Fault Refusal := s.actAnswer scanReadAnswer ans

/-- DETAIL_READ_ANSWER (R149). -/
def execDetailReadAnswer (ans : Arrived (ReadAnswer 2)) (s : State) :
    Host.Outcome State Fault Refusal := s.actAnswer detailReadAnswer ans

/-- FORWARD_ANSWER (R155). -/
def execForwardAnswer (ans : Arrived ForwardAnswer) (s : State) :
    Host.Outcome State Fault Refusal := s.actAnswer forwardAnswer ans

end Sys2Proof.Machine
end

