-- ==== Sys2Proof/Machine/Dispatch.lean ====
section
/-! DEFINITION. The dispatch: one arm for each constructor of Instr, each one call of its meaning. -/

namespace Sys2Proof.Machine

def exec (i : Instr) (s : State) : Host.Outcome State Fault Refusal :=
  match i with
  | .powerOnReset => Sys2Proof.Machine.execPowerOnReset s
  | .porstNegation levels => Sys2Proof.Machine.execPorstNegation levels s
  | .busReset => Sys2Proof.Machine.execBusReset s
  | .busrstNegation => Sys2Proof.Machine.execBusrstNegation s
  | .bootAttempt => Sys2Proof.Machine.execBootAttempt s
  | .bootBusBusyTimeout => Sys2Proof.Machine.execBootBusBusyTimeout s
  | .bootDeviceNack => Sys2Proof.Machine.execBootDeviceNack s
  | .bootAddressNack => Sys2Proof.Machine.execBootAddressNack s
  | .bootStretchTimeout got => Sys2Proof.Machine.execBootStretchTimeout got s
  | .bootArbitrationLost lost => Sys2Proof.Machine.execBootArbitrationLost lost s
  | .bootReadEnd bytes => Sys2Proof.Machine.execBootReadEnd bytes s
  | .initWriteAnswer ans => Sys2Proof.Machine.execInitWriteAnswer ans s
  | .processorRead addr more => Sys2Proof.Machine.execProcessorRead addr more s
  | .processorWrite txn => Sys2Proof.Machine.execProcessorWrite txn s
  | .scanReadAnswer ans => Sys2Proof.Machine.execScanReadAnswer ans s
  | .detailReadAnswer ans => Sys2Proof.Machine.execDetailReadAnswer ans s
  | .forwardAnswer ans => Sys2Proof.Machine.execForwardAnswer ans s
  | .journalWindowWrite txn => Sys2Proof.Machine.execJournalWindowWrite txn s
  | .journalWriteAnswer ans => Sys2Proof.Machine.execJournalWriteAnswer ans s
  | .postWriteAnswer ans => Sys2Proof.Machine.execPostWriteAnswer ans s
  | .descriptorTableWrite txn => Sys2Proof.Machine.execDescriptorTableWrite txn s
  | .controlBlockWrite txn => Sys2Proof.Machine.execControlBlockWrite txn s
  | .breakFilterTimeWrite k w => Sys2Proof.Machine.execBreakFilterTimeWrite k w s
  | .breakPolarityWrite k w => Sys2Proof.Machine.execBreakPolarityWrite k w s
  | .ackTimeoutWrite k w => Sys2Proof.Machine.execAckTimeoutWrite k w s
  | .acknowledgeWrite w => Sys2Proof.Machine.execAcknowledgeWrite w s
  | .interruptEnableWrite w => Sys2Proof.Machine.execInterruptEnableWrite w s
  | .openJob pre spare index start => Sys2Proof.Machine.execOpenJob pre spare index start s
  | .openComplete ans => Sys2Proof.Machine.execOpenComplete ans s
  | .closeJob pre arg => Sys2Proof.Machine.execCloseJob pre arg s
  | .jobBadCmd pre code arg => Sys2Proof.Machine.execJobBadCmd pre code arg s
  | .attach k pre spare start => Sys2Proof.Machine.execAttach k pre spare start s
  | .attachComplete ans => Sys2Proof.Machine.execAttachComplete ans s
  | .detach k pre arg => Sys2Proof.Machine.execDetach k pre arg s
  | .reattach k pre arg => Sys2Proof.Machine.execReattach k pre arg s
  | .hold k pre arg => Sys2Proof.Machine.execHold k pre arg s
  | .resume k pre arg => Sys2Proof.Machine.execResume k pre arg s
  | .clear k pre arg => Sys2Proof.Machine.execClear k pre arg s
  | .release k pre arg => Sys2Proof.Machine.execRelease k pre arg s
  | .releaseComplete k => Sys2Proof.Machine.execReleaseComplete k s
  | .stationBadCmd k pre code arg => Sys2Proof.Machine.execStationBadCmd k pre code arg s
  | .replayTurnGrant => Sys2Proof.Machine.execReplayTurnGrant s
  | .replayReadAnswer ans => Sys2Proof.Machine.execReplayReadAnswer ans s
  | .replayWriteAnswer ans => Sys2Proof.Machine.execReplayWriteAnswer ans s
  | .arbiterGrant => Sys2Proof.Machine.execArbiterGrant s
  | .statusWriteAnswer ans => Sys2Proof.Machine.execStatusWriteAnswer ans s
  | .drainReadAnswer ans => Sys2Proof.Machine.execDrainReadAnswer ans s
  | .frameEnd k => Sys2Proof.Machine.execFrameEnd k s
  | .accFrame k => Sys2Proof.Machine.execAccFrame k s
  | .doneFrame k => Sys2Proof.Machine.execDoneFrame k s
  | .nakCheck k => Sys2Proof.Machine.execNakCheck k s
  | .nakFull k => Sys2Proof.Machine.execNakFull k s
  | .nakTravel k => Sys2Proof.Machine.execNakTravel k s
  | .fltFrame k => Sys2Proof.Machine.execFltFrame k s
  | .ackTimerExpiry k => Sys2Proof.Machine.execAckTimerExpiry k s
  | .haltBegin k => Sys2Proof.Machine.execHaltBegin k s
  | .goBegin k => Sys2Proof.Machine.execGoBegin k s
  | .segBegin k => Sys2Proof.Machine.execSegBegin k s
  | .resendBegin k => Sys2Proof.Machine.execResendBegin k s
  | .frameTransmitEnd k => Sys2Proof.Machine.execFrameTransmitEnd k s
  | .readyChange k asserted => Sys2Proof.Machine.execReadyChange k asserted s
  | .breakLineChange k level => Sys2Proof.Machine.execBreakLineChange k level s
  | .breakQualifiedChange k => Sys2Proof.Machine.execBreakQualifiedChange k s
  | .stopLineChange level => Sys2Proof.Machine.execStopLineChange level s
  | .stopAssertion => Sys2Proof.Machine.execStopAssertion s
  | .stopNegation => Sys2Proof.Machine.execStopNegation s
  | .characterComplete k sample => Sys2Proof.Machine.execCharacterComplete k sample s
  | .lineReturnedToMark k => Sys2Proof.Machine.execLineReturnedToMark k s

end Sys2Proof.Machine
end

