-- ==== Sys2Proof/Safety.lean ====
section
/-! DEFINITION. The invariants and the conditions that the statements speak of, each in the manual's own
terms. -/

namespace Sys2Proof.Machine

/-! ### Invariants -/

/-- The gate keeps its member set equal to the stations whose feed is LIVE or CATCHUP and whose drive
is not in FAULT (R89). -/
def GateHoldsMembers (s : State) : Prop :=
  ∀ k : StationId, inSet k s.gate.members = isMember s.stations[k]

/-- A station's drive is STOPPED exactly when its feed is OFF (R50). -/
def StoppedExactlyOff (s : State) : Prop :=
  ∀ k : StationId, s.stations[k].drive = .stopped ↔ s.stations[k].feed = .off

/-- Outside RUNNING no SEG is outstanding, the ack timer is stopped, the retry count is 0, no full wait
stands, and send equals done (R50, R56). -/
def RestsOutsideRunning (s : State) : Prop :=
  ∀ k : StationId, s.stations[k].drive ≠ .running →
    s.links[k].outstanding = none ∧ s.links[k].ackTimer = none ∧ s.links[k].retry = 0
      ∧ s.links[k].fullWait = false ∧ s.stations[k].send = s.stations[k].done

/-- A station whose feed is OFF has post = send = done, an empty staging buffer and no drain read but a
marked one (R50, R70), and no replay turn that is neither marked nor read (R79). -/
def OffHoldsNothing (s : State) : Prop :=
  ∀ k : StationId, s.stations[k].feed = .off →
    s.stations[k].post = s.stations[k].done ∧ s.stations[k].send = s.stations[k].done
      ∧ s.links[k].staging = .empty ∧ (∀ d, s.links[k].drain = some d → d.marked = true)
      ∧ ∀ t, s.replay.turn = some t → t.station = k → t.copy = none → t.marked = true

/-- The receive queue holds at most 2 frames, and at most 1 while a frame that may enter it is being
received (R106). -/
def QueueHasRoom (s : State) : Prop :=
  ∀ k : StationId, s.links[k].queue.length ≤ 2
    ∧ ∀ f, s.links[k].rx = some f → f.mode = .received → s.links[k].queue.length ≤ 1

/-- While a commit is under way, the stations of its fan-out set that it has not yet posted to, the one
whose ring write is requested first (R39, R40). -/
def toPost (s : State) : Option (List StationId) :=
  match s.proc.current with
  | some ⟨_, .journalWrite fanOut⟩ => some fanOut
  | some ⟨_, .postWrite k _ _ rest⟩ => some (k :: rest)
  | some ⟨_, .forward _⟩ => none
  | some ⟨_, .scan _⟩ => none
  | some ⟨_, .detail _ _ _⟩ => none
  | none => none

/-- A commit's journal write or ring write is the work on the processor's behalf (R39, R40). -/
def committing (s : State) : Bool := (toPost s).isSome

/-- The gate list holds at most 4 entries (R88), and at most 3 while a SYNC record is being committed
(R41). -/
def GateListFits (s : State) : Prop :=
  s.gate.entries.length ≤ 4
    ∧ (committing s = true → recSync s.job.holders = true → s.gate.entries.length ≤ 3)

/-- Only named positions are set in a word of pending bits. -/
def named (w : Word) : Prop := w &&& ~~~namedBits = 0#32

/-- Positions not named in Table 9-3 are zero in the pending word (R166), and in every owed set. -/
def PendingBitsNamed (s : State) : Prop :=
  named s.writer.pending ∧ (∀ r, named (s.writer.owed.get r))
    ∧ ∀ w, s.writer.write = some w → named w.owed

/-- The requester of a held sequence. -/
def holderRequester : Holder → Requester
  | .replay => .replay
  | .status => .status

/-- While a held sequence stands, the port carries a transaction of its holder (R177). -/
def HoldCarriesHolder (s : State) : Prop :=
  ∀ h, s.port.hold = some h → inFlightFor s (holderRequester h) = true

/-- The journal has at most 16384 slots and a ring at most 1024 (R21, R48). -/
def SizesFit (s : State) : Prop :=
  s.job.slots ≤ 16384 ∧ ∀ k : StationId, s.stations[k].capacity ≤ 1024

/-! ### Sequence numbers in order -/

/-- done is not after send, send is not after post, and post − done is at most C (R49). -/
def PointersInOrder (s : State) : Prop :=
  ∀ k : StationId, let st := s.stations[k]
    seqDist st.done st.send ≤ seqDist st.done st.post ∧ seqDist st.done st.post ≤ st.capacity

/-- A station that is not OFF, or is being attached, belongs to a job, a station being attached is OFF
(R61), and a job has a journal (R50). -/
def StationsHaveJob (s : State) : Prop :=
  (∀ k : StationId, s.stations[k].feed ≠ .off → s.job.state ≠ .noJob)
    ∧ (∀ k : StationId, ∀ d q, s.stations[k].progress = .attaching d q →
        s.stations[k].feed = .off ∧ s.job.state ≠ .noJob)
    ∧ (s.job.state ≠ .noJob → 1 ≤ s.job.slots)

/-- A LIVE station's post is the frontier, or the frontier plus one when the commit in flight has posted
to it; its ring has room while the commit has not. The distance from a DETACHED or CATCHUP station's
post to the frontier is at most N, and less while a commit is in flight (R36, R37, R39, R50). -/
def FeedsFollowFrontier (s : State) : Prop :=
  s.job.inFlight = committing s
    ∧ (∀ l, toPost s = some l → l.Nodup)
    ∧ ∀ k : StationId, let st := s.stations[k]
      (st.feed = .live → toPost s = none → st.post = s.job.frontier)
      ∧ (∀ l, st.feed = .live → toPost s = some l →
          (k ∈ l → st.post = s.job.frontier ∧ seqDist st.done st.post < st.capacity)
          ∧ (k ∉ l → st.post = s.job.frontier + 1#16
              ∧ ∀ p, s.proc.current ≠ some ⟨p, .journalWrite l⟩))
      ∧ (st.feed = .detached ∨ st.feed = .catchup →
          seqDist st.post s.job.frontier ≤ s.job.slots
          ∧ (committing s = true → seqDist st.post s.job.frontier ≠ s.job.slots))

/-- A replay turn that is neither marked nor read is for the post of a CATCHUP station, behind the
frontier and with room in its ring (R75, R76). -/
def TurnHasRoom (s : State) : Prop :=
  ∀ t, s.replay.turn = some t → t.copy = none → t.marked = false →
    let st := s.stations[t.station]
    st.feed = .catchup ∧ t.seq = st.post ∧ st.post ≠ s.job.frontier
      ∧ seqDist st.done st.post < st.capacity

/-- The staging buffer holds nothing, the copy of the current send, or the current send marked spoiled; a
drain read that is not marked is for the current send, with nothing staged; and the outstanding SEG, and
a SEG on the wire that is not void, is the staged copy of the current send, before post (R112 to R115). -/
def LinkFollowsSend (s : State) : Prop :=
  ∀ k : StationId, let st := s.stations[k]; let l := s.links[k]
    (∀ q m, l.staging = .copy q m → q = st.send)
    ∧ (∀ q, l.staging = .spoiled q → q = st.send)
    ∧ (l.staging ≠ .empty → l.drain = none)
    ∧ (∀ d, l.drain = some d → d.marked = false → d.seq = st.send)
    ∧ (∀ o, l.outstanding = some o →
        o.seq = st.send ∧ st.send ≠ st.post ∧ ∃ m, l.staging = .copy st.send m)
    ∧ ∀ t q, l.tx = some t → t.kind = .seg q false →
        q = st.send ∧ st.send ≠ st.post ∧ l.outstanding = none ∧ ∃ m, l.staging = .copy st.send m

/-- The gate list ascends, each entry before those behind it and all before the frontier (R88); a done-set
is of the members whose done pointer is after the entry (R90 to R93); and some member has not completed
the oldest entry (R94). -/
def GateAscends (s : State) : Prop :=
  s.gate.entries.Pairwise (fun a b => seqBefore a.seq b.seq = true)
    ∧ (∀ e ∈ s.gate.entries, seqBefore e.seq s.job.frontier = true)
    ∧ (∀ e ∈ s.gate.entries, ∀ k : StationId, inSet k e.doneSet = true ↔
        inSet k s.gate.members = true ∧ seqBefore e.seq s.stations[k].done = true)
    ∧ ∀ e, s.gate.entries[0]? = some e → ∃ k : StationId, inSet k s.gate.members = true
        ∧ inSet k e.doneSet = false

/-- The ring pointers, the feeds, the links and the gate list are in the order that the manual gives them
(R49, R50, R88, R113, R115), with what keeps them so. -/
def SequencesInOrder (s : State) : Prop :=
  GateHoldsMembers s ∧ OffHoldsNothing s ∧ SizesFit s ∧ PointersInOrder s ∧ StationsHaveJob s
    ∧ FeedsFollowFrontier s ∧ TurnHasRoom s ∧ LinkFollowsSend s ∧ GateAscends s

/-! ### Conditions -/

/-- The levels of SCL and SDA at a time after the beginning of a course. -/
def levelsFrom (scl sda : Bool) : List BusChange → Nat → Bool × Bool
  | [], _ => (scl, sda)
  | c :: rest, t => if c.after ≤ t then levelsFrom c.scl c.sda rest t else (scl, sda)

def levelsAt (b : BusCourse) (t : Nat) : Bool × Bool := levelsFrom b.scl b.sda b.changes t

/-- SDA rises at this time while SCL is high: a STOP (R183). -/
def StopSeen (b : BusCourse) (t : Nat) : Prop :=
  0 < t ∧ levelsAt b (t - 1) = (true, false) ∧ levelsAt b t = (true, true)

/-- The boot bus is free: a STOP has been seen and both lines have stayed high since, or both have stayed
high for 100 µs, 4800 periods of LINKCLK (R183, log 3). -/
def BusFree (b : BusCourse) (t : Nat) : Prop :=
  (∃ u, u ≤ t ∧ StopSeen b u ∧ ∀ v, u ≤ v → v ≤ t → levelsAt b v = (true, true))
    ∨ (4800 ≤ t ∧ ∀ v, t - 4800 ≤ v → v ≤ t → levelsAt b v = (true, true))

/-- The bus becomes free, for the first time, `t` periods after the entry into WAITING. -/
def BusFirstFree (b : BusCourse) (t : Nat) : Prop := BusFree b t ∧ ∀ u, u < t → ¬BusFree b u

/-- The port takes a transaction: the pass has ended, none is in progress, and the regions of the
boot record, with the control page aligned to 2 KB, are latched (R138 to R140). -/
def PortTakes (s : State) (r : Regions) : Prop :=
  s.taking = true ∧ s.proc.current = none ∧ s.boot.latched = some r
    ∧ alignedTo r.page pageSize = true

/-- The words before a command word and the command word itself are all taken: no locked word of a
station that is not OFF, and the slot is idle (R159, R161). -/
def StationWriteTaken (s : State) (k : StationId) (pre : List Word) : Prop :=
  pre.length ≤ 7 ∧ (pre.length ≤ 2 ∨ s.stations[k].feed = .off) ∧ s.stations[k].progress = .idle

/-- As the command word of station k acts: the words before it applied, and the word itself in the
shadow (R161). -/
def State.atStationCommand (s : State) (k : StationId) (pre : List Word) (w : Word) : State :=
  setStationShadow (applyWords (stationBlockOffset k (15 - pre.length)) (pre.map asWhole) s) k 15 w

/-- As the job command word acts (R161). -/
def State.atJobCommand (s : State) (pre : List Word) (w : Word) : State :=
  setJobShadow (applyWords (jobBlockOffset (15 - pre.length)) (pre.map asWhole) s) 15 w

/-- The log after an error: the entry in an empty log, one more on the overflow count of a full one
(R169). -/
def loggedWith (log : Option LogEntry) (e : LogEntry) : Option LogEntry :=
  match log with
  | none => some e
  | some l => some { l with overflow := satIncByte l.overflow }

/-- Pending bits more owed to a record. -/
def Owed.plus (o : Owed) (r : RecordId) (bits : Word) : Owed := o.set r (o.get r ||| bits)

/-- Bit 18 is owed when an error has filled an empty log (R169). -/
def Owed.logged (o : Owed) (log : Option LogEntry) : Owed :=
  if log = none then o.plus .errorLog (placeFlag true 18) else o

/-- `t` is `v`, but for the writer, in which the owed sets are `owed`, every mark of `s` stands, and the
records of `marked` are marked. -/
def Reports (s v : State) (owed : Owed) (marked : List RecordId) (t : State) : Prop :=
  t = { v with writer := t.writer } ∧ t.writer.owed = owed
    ∧ t.writer.pending = s.writer.pending ∧ t.writer.write = s.writer.write
    ∧ t.writer.position = s.writer.position
    ∧ (∀ r, s.writer.marks.get r = true → t.writer.marks.get r = true)
    ∧ ∀ r ∈ marked, t.writer.marks.get r = true

/-- The transaction is refused (R139): answered ERROR with its kind, one error logged with origin
PROCESSOR under the one-record rule (R169, R170), bit 18 owed where the log was empty, the error log's
record marked, and nothing else changed from `b`, the state with what the refusal itself changes
besides. -/
def Refuses (b : State) (p : ProcTxn) (kind : ErrorKind) (t : State) : Prop :=
  Reports b { b with
      proc := ⟨none, some (.error kind)⟩
      log := loggedWith b.log
        ⟨kind, .processor, p.isWrite, byteAddr p.addr, p.firstData, none, 0#8⟩ }
    (b.writer.owed.logged b.log) [.errorLog] t

/-- The command refuses the transaction. -/
def RefusedFrom (i : Instr) (s b : State) (p : ProcTxn) (kind : ErrorKind) : Prop :=
  ∃ t, exec i s = .next t ∧ Refuses b p kind t

/-- The answer row with memory's answer `ans` to the transaction that the port carries answers `t`,
where the requests in `late` that its work makes come after the next grant (R175, log 29). -/
def AnswerGives {α : Type} (row : Arrived α → Instr) (ans : α) (s t : State) : Prop :=
  ∀ late, exec (row (.current late ans)) s = .next (t.deferred late s)

/-- The answer `ans` of an answer row refuses the transaction. -/
def RefusedAnswer {α : Type} (row : Arrived α → Instr) (ans : α) (s b : State) (p : ProcTxn)
    (kind : ErrorKind) : Prop :=
  ∃ t, AnswerGives row ans s t ∧ Refuses b p kind t

/-- The transaction is answered RETRY and nothing else happens (R138). -/
def AnsweredRetry (i : Instr) (s : State) : Prop :=
  exec i s = .next { s with proc := ⟨none, some .retry⟩ }

/-- The four rows by which a write at any address is presented (log 8). -/
def presentsWrite (i : Instr) (t : WriteTxn) : Prop :=
  i = .processorWrite t ∨ i = .journalWindowWrite t ∨ i = .descriptorTableWrite t
    ∨ i = .controlBlockWrite t

/-- A taken write of the page is forwarded to memory at its own address (R142). -/
def State.forwardsPage (s : State) (t : WriteTxn) : State :=
  s.startWork (.write t) (.forward (byteAddr t.addr))

/-! ### Parts of a next state -/

/-- The port after an answer that ends its transaction: free, with no hold (R177, R180). -/
def State.freed (s : State) : State :=
  { s with port := { s.port with inFlight := none, hold := none } }

/-- Cache entry `n` has been made the most recently used (R147). -/
def State.touched (s : State) (n : Fin 8) : State :=
  { s with cache := ⟨s.cache.entries, n :: s.cache.recency.filter (fun j => j != n)⟩ }

/-- A drain read of the ring slot of send is begun on a link that has none and stages nothing, while
the drive is not STOPPED and send is before post (R111). -/
def Link.drained (l : Link) (st : Station) : Link :=
  if st.drive ≠ .stopped ∧ seqBefore st.send st.post = true ∧ l.staging = .empty ∧ l.drain = none then
    { l with drain := some ⟨st.send,
        st.ringBase + BitVec.ofNat 32 (32 * (st.send.toNat % st.capacity)), false⟩ }
  else l

/-- The gate is told of a station that has become a member, or has stopped being one (R89). -/
def Gate.told (g : Gate) (k : StationId) (st : Station) : Gate :=
  if isMember st = true ∧ inSet k g.members = false then g.join k st.done
  else if isMember st = false ∧ inSet k g.members = true then g.leave k
  else g

/-- Station k and its link take new values, the gate is told, and the staging condition weighed. -/
def State.moved (s : State) (k : StationId) (st : Station) (l : Link) : State :=
  { s with stations := s.stations.set k st, links := s.links.set k (l.drained st),
           gate := s.gate.told k st }

/-- A turn for station k whose read has not been answered, overtaken: withdrawn before the read's
grant, marked after it (R79). -/
def State.overtakenTurn (s : State) (k : StationId) : Option ReplayTurn :=
  s.replay.turn.bind fun t =>
    if t.station = k ∧ t.copy = none then
      if inFlightFor s .replay = true then some { t with marked := true } else none
    else some t

/-- The command answers `v`, with what it reports. -/
def EndsIn (i : Instr) (s v : State) (owed : Owed) (marked : List RecordId) : Prop :=
  ∃ t, exec i s = .next t ∧ Reports s v owed marked t

/-- The answer `ans` of an answer row takes the block to `v`, with what it reports. -/
def AnswerEndsIn {α : Type} (row : Arrived α → Instr) (ans : α) (s v : State) (owed : Owed)
    (marked : List RecordId) : Prop :=
  ∃ t, AnswerGives row ans s t ∧ Reports s v owed marked t

/-- `v` with a station command complete: code and result recorded, the slot idle (R162). -/
def State.stationDone (v : State) (k : StationId) (code : BitVec 4) (result : Result) : State :=
  { v with
    stations := v.stations.set k
      { v.stations[k] with lastCommand := code, lastResult := result, progress := .idle } }

/-- `v` with a job command complete (R162). -/
def State.jobDone (v : State) (code : BitVec 4) (result : Result) : State :=
  { v with job := { v.job with lastCommand := code, lastResult := result, opening := none } }

/-- The write of a command word of station k completes its command within the step, from `v`: the
command is complete, its bit and the bits `events` are owed, its record is marked, and the write is
forwarded to memory (R142, R161, R162). -/
def StationCommandEnds (i : Instr) (s v : State) (k : StationId) (t : WriteTxn) (code : BitVec 4)
    (result : Result) (events : Word) : Prop :=
  EndsIn i s { v.stationDone k code result with
      proc := ⟨some ⟨.write t, .forward (byteAddr t.addr)⟩, none⟩ }
    (v.writer.owed.plus (.station k) (events ||| commandDoneBit k)) [.station k]

/-- The same of the job command word. -/
def JobCommandEnds (i : Instr) (s v : State) (t : WriteTxn) (code : BitVec 4) (result : Result) :
    Prop :=
  EndsIn i s { v.jobDone code result with
      proc := ⟨some ⟨.write t, .forward (byteAddr t.addr)⟩, none⟩ }
    (v.writer.owed.plus .job jobDoneBit) [.job]

/-- A write of whole or partial words that reaches the window of the job's journal through cache entry
`n` (R30, R153). -/
def WritesJournal (s : State) (r : Regions) (i : Instr) (t : WriteTxn) (n : Fin 8) : Prop :=
  presentsWrite i t ∧ PortTakes s r ∧ inOneBlock (.write t) = true
    ∧ inPage r (byteAddr t.addr) = false ∧ inWindowSpace r (byteAddr t.addr) = true
    ∧ s.job.state ≠ .noJob
    ∧ ∃ e, cacheHit s.cache (byteAddr t.addr) = some (n, e) ∧ descKind e.desc.w0 = some .journal
      ∧ s.job.journal = some e.index

/-- The holder positions that a journal write stores. -/
def storesTo (t : WriteTxn) (j : Fin 8) : Prop :=
  t.addr.toNat % 8 ≤ j.val ∧ j.val < t.addr.toNat % 8 + (txnWords t).length

/-- The record that stands in the holders once the write's words are stored (R31). -/
def HoldersAfter (s : State) (t : WriteTxn) (m : Record) : Prop :=
  ∀ j : Fin 8, (storesTo t j →
      ∃ w, (txnWords t)[j.val - t.addr.toNat % 8]? = some w ∧ m[j] = w.data)
    ∧ (¬storesTo t j → m[j] = s.job.holders[j])

/-- A whole write that falls in the frontier's slot of an open job (R30, R31). -/
def StoresWhole (s : State) (t : WriteTxn) : Prop :=
  s.job.state = .opened ∧ (∀ w ∈ txnWords t, w.enables = 0xF#4)
    ∧ (byteAddr t.addr - s.job.base).toNat / 32 = s.job.frontier.toNat % s.job.slots

/-- The write completes the mask: the record is full (R34). -/
def FillsRecord (s : State) (t : WriteTxn) : Prop :=
  ∀ j : Fin 8, s.job.mask.getLsbD j.val = true ∨ storesTo t j

/-- A DETACHED or CATCHUP station stands at frontier − N (R36). -/
def StandsAtOverwrite (s : State) (k : StationId) : Prop :=
  (s.stations[k].feed = .detached ∨ s.stations[k].feed = .catchup)
    ∧ s.stations[k].post = s.job.frontier - BitVec.ofNat 16 s.job.slots

/-- A LIVE station's ring is full (R36). -/
def LiveAndFull (s : State) (k : StationId) : Prop :=
  s.stations[k].feed = .live
    ∧ seqDist s.stations[k].done s.stations[k].post = s.stations[k].capacity

/-- The commit of the record in the holders has ended: DONE, the frontier past the record, a gate entry
for a SYNC record, an END record closing the job, the assembler empty, and every CATCHUP station level
with the new frontier LIVE (R41, R42, R86, R93). -/
def CommitEnds (s t : State) : Prop :=
  t = { s with proc := t.proc, job := t.job, gate := t.gate, stations := t.stations,
               writer := t.writer }
    ∧ t.proc = ⟨none, some (.done [])⟩
    ∧ t.job = { s.job with
        frontier := s.job.frontier + 1#16
        counter := if s.job.counter = 0xFFFF#16 then s.job.counter else s.job.counter + 1#16
        inFlight := false
        mask := 0#8
        holders := zeroRecord
        state := if recKind s.job.holders = some .endJob then .closed else s.job.state }
    ∧ (recSync s.job.holders = false → t.gate = s.gate)
    ∧ (recSync s.job.holders = true → t.gate.members = s.gate.members ∧ ∃ d : StationSet,
        (∀ k : StationId, inSet k d = true ↔
          inSet k s.gate.members = true ∧ seqBefore s.job.frontier s.stations[k].done = true)
        ∧ t.gate.entries = releaseEntries s.gate.members (s.gate.entries ++ [⟨s.job.frontier, d⟩]))
    ∧ (∀ k : StationId, t.stations[k] =
        if s.stations[k].feed = .catchup ∧ s.stations[k].post = s.job.frontier + 1#16 then
          { s.stations[k] with feed := .live } else s.stations[k])
    ∧ t.writer.owed.job = s.writer.owed.job
        ||| (if recKind s.job.holders = some .endJob then jobChangeBit else 0#32)
    ∧ ∀ k : StationId, t.writer.owed.get (.station k) = s.writer.owed.get (.station k)
        ||| if s.stations[k].feed = .catchup ∧ s.stations[k].post = s.job.frontier + 1#16 then
          eventBit k else 0#32

/-! ### Parts of a command's completion -/

/-- The stale frames of the queue counted, up to 65535 (R71, R107). -/
def staleAdded (c : Counters) (n : Nat) : Counters :=
  { c with stale := BitVec.ofNat 16 (min 65535 (c.stale.toNat + n)) }

/-- The size in bytes of a descriptor's window: 512 × 2^n (00 section 0.5.4). -/
def windowBytes (v : Vector Word 4) : Nat := 512 * 2 ^ (fieldOf v[0] 8 4)

/-- The tests on a descriptor that OPEN and ATTACH share (R25 case 3, R62 case 2): valid, no reserved
priority or access, the base aligned to the size, and no byte shared with the control page. -/
def DescriptorSound (page : Word) (v : Vector Word 4) : Prop :=
  v[0].getLsbD 0 = true ∧ fieldOf v[2] 0 2 ≠ 3 ∧ fieldOf v[2] 4 2 ≠ 3 ∧ v[1].toNat % windowBytes v = 0
    ∧ (v[1].toNat + windowBytes v ≤ page.toNat ∨ page.toNat + 2048 ≤ v[1].toNat)

/-- R25 case 3: kind JOURNAL and a size code of 2 to 10. -/
def OpensJournal (page : Word) (v : Vector Word 4) : Prop :=
  DescriptorSound page v ∧ fieldOf v[0] 4 2 = 1 ∧ 2 ≤ fieldOf v[0] 8 4 ∧ fieldOf v[0] 8 4 ≤ 10

/-- R62 case 2: kind RING of station k and a size code of 0 to 6. -/
def AttachesRing (page : Word) (k : StationId) (v : Vector Word 4) : Prop :=
  DescriptorSound page v ∧ fieldOf v[0] 4 2 = 2 ∧ fieldOf v[2] 8 3 = k.val ∧ fieldOf v[0] 8 4 ≤ 6

/-- R62 case 3: the sequence number is retained (R22) or is the frontier, and is not frontier − N while
a commit is in flight. -/
def StartsAt (j : Job) (q : Seq) : Prop :=
  ((1 ≤ seqDist q j.frontier ∧ seqDist q j.frontier ≤ j.counter.toNat
      ∧ seqDist q j.frontier ≤ j.slots) ∨ q = j.frontier)
    ∧ ¬(j.inFlight = true ∧ q = j.frontier - BitVec.ofNat 16 j.slots)

/-- The station has released its ring (R70): `v` with station k OFF and STOPPED, its pointers zero, its
ring unlatched, the link's staging emptied and its reads marked, the gate left, an unanswered turn
overtaken, the queued frames discarded as stale, and RELEASE complete. -/
def State.released (s : State) (k : StationId) : State :=
  let st := s.stations[k]
  let l := s.links[k]
  let off : Station := { st with
    feed := .off, drive := .stopped, ring := none, ringBase := 0#32, capacity := 0
    post := 0#16, send := 0#16, done := 0#16
    counters := staleAdded st.counters l.queue.length }
  { s with
    stations := s.stations.set k { off with lastCommand := 7#4, lastResult := .ok, progress := .idle }
    links := s.links.set k { l with
      staging := .empty, outstanding := none, ackTimer := none, retry := 0, fullWait := false
      drain := l.drain.map fun d => { d with marked := true }
      tx := l.tx.map Tx.void
      queue := [] }
    gate := s.gate.told k off
    replay := { s.replay with turn := s.overtakenTurn k } }

/-- A drive that RELEASE finds RUNNING is held with reason OPERATOR (R69). -/
def State.heldForRelease (s : State) (k : StationId) : State :=
  let st := s.stations[k]
  if st.drive = .running then
    s.moved k { st with drive := .held .operator, send := st.done } (s.links[k].rewind.placeHalt (some 2#8))
  else { s with links := s.links.set k (s.links[k].drained st) }

/-- No frame is in transmission on the link and no HALT is queued (R69). -/
def LinkQuiet (l : Link) : Prop := l.tx = none ∧ ∀ h, l.slot ≠ .halt h

/-! ### The arbiter -/

/-- The place of a requester in the order of a grant: TRANSIT, COMMAND (the job, then stations 0 to 5),
STATUS, DRAIN from the station after the drain position, REPLAY (R175, R176). -/
def grantRank (s : State) : Requester → Nat
  | .transit => 0
  | .commandJob => 1
  | .commandStation k => 2 + k.val
  | .status => 8
  | .drain k => 9 + (k - (s.port.drainPos + 1)).val
  | .replay => 15

/-- A request is weighed at a grant: it stands, and it has not come just after the grant; where every
standing request has, the port is free and idle as they come, and they are weighed (R175). -/
def Weighed (s : State) (q : Requester) : Prop :=
  standing s q = true ∧ (q ∈ s.port.late → ∀ p, standing s p = true → p ∈ s.port.late)

/-- A request of this requester is granted: the port is free, the request is weighed, and no request
before it in the order is (R174 to R176). -/
def GrantedNext (s : State) (r : Requester) : Prop :=
  s.porst = false ∧ s.port.inFlight = none ∧ s.port.hold = none ∧ Weighed s r
    ∧ ∀ q, grantRank s q < grantRank s r → ¬ Weighed s q

/-- At a grant, no request has come after it any more. -/
def State.granting (s : State) : State := { s with port := { s.port with late := [] } }

/-- A read of `n` words by requester `r` is on the port. -/
def State.reading (s : State) (r : Requester) (origin : Origin) (addr : Word) (n : Nat) : State :=
  { s with port := { s.port with inFlight := some ⟨r, ⟨origin, addr, .read n⟩⟩ } }

/-- A write of a record, eight whole words, by requester `r` is on the port. -/
def State.writing (s : State) (r : Requester) (origin : Origin) (addr : Word) (m : Record) : State :=
  { s with port := { s.port with
      inFlight := some ⟨r, ⟨origin, addr, .write (m.toList.map fun w => ⟨w, 0xF#4⟩)⟩⟩ } }

/-- The offset in the control page of write i of the initialization pass (R186): the descriptor table,
the control blocks, the status area above the summary, and last the summary. -/
def passOffset (i : Nat) : Nat :=
  if i < 30 then 32 * i else if i < 61 then 0x420 + 32 * (i - 30) else 0x400

/-- Station k's drive enters FAULT with code `c`, from RUNNING with the HALT `halt` and from HELD with
none, and the event bit is owed; in another drive state it stays (R54, R55, R57). What the link's
staging then holds is `after` of what the entry leaves. -/
def State.faultedWith (s : State) (k : StationId) (c : FaultCode) (halt : Option Byte)
    (after : Station → Link → Link) : State :=
  let st := s.stations[k]
  let moved (h : Option Byte) : State :=
    let f : Station := { st with drive := .fault c, send := st.done }
    s.moved k f (after f (s.links[k].rewind.placeHalt h))
  match st.drive with
  | .running => moved halt
  | .held _ => moved none
  | .stopped => { s with links := s.links.set k ((after st s.links[k]).drained st) }
  | .fault _ => { s with links := s.links.set k ((after st s.links[k]).drained st) }

/-- The event bit that a request to enter FAULT owes (R72). -/
def faultEvent (st : Station) (k : StationId) : Word :=
  match st.drive with
  | .running => eventBit k
  | .held _ => eventBit k
  | .stopped => 0#32
  | .fault _ => 0#32

/-- The row that takes a frame of the receive queue: by its type and, for a NAK, its reason
(Table 6-2). -/
def frameRow (k : StationId) : DriveFrame → Instr
  | .acc _ => .accFrame k
  | .done _ => .doneFrame k
  | .nak _ r => if r = 1#8 then .nakCheck k else if r = 2#8 then .nakFull k else .nakTravel k
  | .flt _ => .fltFrame k

/-- A change of break line k to `level` is a break edge under the polarity (R131). -/
def EdgeUnder (p : Polarity) (level : Bool) : Prop :=
  (p = .rising ∧ level = true) ∨ (p = .falling ∧ level = false) ∨ p = .both

/-- A drive asked to enter HELD with a reason that the stop or break line gives: a RUNNING drive enters
it, any other stays (R54, R57); the staging condition is weighed either way. -/
def State.heldBy (s : State) (k : StationId) (r : HoldReason) : State :=
  let st := s.stations[k]
  if st.drive = .running then
    s.moved k { st with drive := .held r, send := st.done }
      (s.links[k].rewind.placeHalt (some (BitVec.ofNat 8 (holdCode r))))
  else { s with links := s.links.set k (s.links[k].drained st) }

end Sys2Proof.Machine
end

