-- ==== Sys2Proof/Certificates/Slice0/Obligations.lean ====
section
/-! DEFINITION. The statements for the provers. -/

open Sys2Proof Sys2Proof.Machine

/-! ### Steps, the queue and the marks -/

/-- A step with a command at the front of the queue runs that command with the queue's rest. On an empty
queue one LINKCLK period passes and nothing else changes, which is the model's choice (log 3).
The model's own choices it rests on: logs 1, 3. -/
def Obligations.StepRunsFrontCommand : Prop :=
  (∀ (c : Instr) (rest : List Instr) (s : State),
    step { s with pending := c :: rest } = exec c { s with pending := rest })
  ∧ ∀ s : State, s.pending = [] → step s = .next { s with now := s.now + 1 }

/-- Every command answers a next state, leaves the queue as it is and never turns time back.
The model's own choices it rests on: logs 1, 2, 3, 35. -/
def Obligations.EveryCommandGoesOn : Prop :=
  ∀ (i : Instr) (s : State), ∃ t, exec i s = .next t ∧ t.pending = s.pending ∧ s.now ≤ t.now

/-- A status record whose contents a command has changed is marked, for every command but the two
resets, which clear the marks (R163, R172). The comparison at a command's end adds the marks of the
records that differ from before the command; the command may itself have marked a record whose
contents it leaves, or brings back to, what they were (logs 19, 20).
The model's own choices it rests on: logs 19, 20. -/
def Obligations.ChangedRecordIsMarked : Prop :=
  (∀ (i : Instr) (s t : State) (r : RecordId), s.porst = false → i ≠ .powerOnReset → i ≠ .busReset →
    exec i s = .next t → (recordLower t r ≠ recordLower s r ∨ recordUpper t r ≠ recordUpper s r) →
    t.writer.marks.get r = true)
  ∧ ∀ (s t : State) (r : RecordId),
    report s t = { t with writer := { t.writer with marks := (report s t).writer.marks } }
    ∧ ((report s t).writer.marks.get r = true ↔
        t.writer.marks.get r = true ∨ recordLower s r ≠ recordLower t r
          ∨ recordUpper s r ≠ recordUpper t r)

/-- The status records hold the fields of section 12.4 at their bit positions, and zero elsewhere: the
summary, the error log (Table 12-9), all zero while the log is empty, the job status record
(Table 12-7) and the station status records (Table 12-8); the codes of their fields are those of the
tables and of Table 9-4. The pending bits are those of Table 9-3, and each record has its place in the
control page (Table 12-4). N, C and the number of gate entries fit their fields, which the invariants of
StepsKeepBounds keep. -/
def Obligations.StatusRecordsHoldFields : Prop :=
  (∀ s : State, recordUpper s .summary = none ∧ recordLower s .summary =
      #v[s.writer.pending, s.shadows.job[1], 0#32, 0#32, 0#32, 0#32, 0#32, 0#32])
  ∧ (∀ s : State, recordUpper s .errorLog = none
      ∧ (s.log = none → recordLower s .errorLog = Vector.replicate 8 0#32)
      ∧ ∀ e, s.log = some e → let r := recordLower s .errorLog
        r[0].toNat = errorKindCode e.kind + 2 ^ 8 * originCode e.origin + 2 ^ 12 * e.write.toNat
            + 2 ^ 16 * (match e.station with | some k => k.val | none => 7)
            + 2 ^ 24 * e.overflow.toNat
          ∧ r[1] = e.addr ∧ r[2] = e.data ∧ ∀ i : Fin 8, 3 ≤ i.val → r[i] = 0#32)
  ∧ (∀ s : State, SizesFit s → s.gate.entries.length ≤ 4 →
      let r := recordLower s .job
      let j := s.job
      let entry (i : Nat) : Nat := match s.gate.entries[i]? with
        | some e => e.seq.toNat + 2 ^ 16 * e.doneSet.toNat
        | none => 0
      r[0].toNat = jobStateCode j.state + 2 ^ 4 * (!s.stop.qualified).toNat
          + 2 ^ 8 * j.opening.isSome.toNat + 2 ^ 12 * j.lastCommand.toNat
          + 2 ^ 16 * resultCode j.lastResult + 2 ^ 24 * j.mask.toNat
        ∧ r[1].toNat = j.start.toNat + 2 ^ 16 * j.frontier.toNat
        ∧ r[2].toNat = j.slots + (match j.journal with
            | some d => 2 ^ 16 * d.toNat + 2 ^ 23
            | none => 0)
        ∧ r[3].toNat = j.counter.toNat + 2 ^ 16 * j.searches.toNat
        ∧ r[4].toNat = s.gate.entries.length + 2 ^ 8 * s.gate.members.toNat
        ∧ r[5].toNat = entry 0 ∧ r[6].toNat = entry 1 ∧ r[7].toNat = entry 2
        ∧ ∃ u, recordUpper s .job = some u ∧ u[0].toNat = entry 3
          ∧ ∀ i : Fin 8, 1 ≤ i.val → u[i] = 0#32)
  ∧ (∀ (s : State) (k : StationId), SizesFit s →
      let r := recordLower s (.station k)
      let st := s.stations[k]
      let c := st.counters
      r[0].toNat = feedCode st.feed + 2 ^ 4 * lossCode st.feed + 2 ^ 8 * driveCode st.drive
          + 2 ^ 12 * holdReasonCode st.drive + 2 ^ 16 * faultCodeField st.drive
          + 2 ^ 24 * driveCodeField st.drive
        ∧ r[1].toNat = st.lastCommand.toNat + 2 ^ 4 * resultCode st.lastResult
            + 2 ^ 8 * (st.progress != .idle).toNat + 2 ^ 12 * s.breaks[k].qualified.toNat
        ∧ r[2].toNat = st.post.toNat + 2 ^ 16 * st.send.toNat
        ∧ r[3].toNat = st.done.toNat + 2 ^ 16 * st.capacity
        ∧ r[4].toNat = c.linkErrors.toNat + 2 ^ 16 * c.overruns.toNat
        ∧ r[5].toNat = c.stale.toNat + 2 ^ 16 * c.retries.toNat
        ∧ r[6].toNat = c.clamps.toNat + 2 ^ 16 * c.breaks.toNat
        ∧ r[7] = 0#32 ∧ recordUpper s (.station k) = some (Vector.replicate 8 0#32))
  ∧ [ErrorKind.unmapped, .overlap, .badDesc, .access, .burstCross, .partialWord, .noJob, .rewrite, .gap,
      .badCheck, .badSeq, .badFormat, .statusWrite, .configLocked, .memFault, .bootBad].map errorKindCode
    = [1, 2, 3, 4, 5, 6, 7, 8, 9, 10, 11, 12, 13, 14, 15, 16]
  ∧ [Origin.processor, .table, .command, .journal, .post, .replay, .drain, .status, .boot].map originCode
    = [1, 2, 3, 4, 5, 6, 7, 8, 9]
  ∧ [JobState.noJob, .opened, .closed].map jobStateCode = [0, 1, 2]
  ∧ [Result.ok, .badState, .badArg, .noJob, .noRing, .stopActive, .breakActive, .haltPending,
      .badCmd].map resultCode = [0, 1, 2, 3, 4, 5, 6, 7, 8]
  ∧ [Feed.off, .live, .detached, .catchup, .lost .overwritten, .lost .check, .lost .memory].map
      (fun f => (feedCode f, lossCode f)) = [(0, 0), (1, 0), (2, 0), (3, 0), (4, 1), (4, 2), (4, 3)]
  ∧ [Drive.stopped, .running, .held .attach, .held .operator, .held .breakLine, .held .stopLine,
      .held .cleared].map (fun d => (driveCode d, holdReasonCode d, faultCodeField d, driveCodeField d))
    = [(0, 0, 0, 0), (1, 0, 0, 0), (2, 1, 0, 0), (2, 2, 0, 0), (2, 3, 0, 0), (2, 4, 0, 0), (2, 5, 0, 0)]
  ∧ [FaultCode.linkTimeout, .driveRefused, .travel, .memory, .ringCheck].map (fun c =>
      (driveCode (.fault c), holdReasonCode (.fault c), faultCodeField (.fault c),
        driveCodeField (.fault c)))
    = [(3, 0, 1, 0), (3, 0, 2, 0), (3, 0, 4, 0), (3, 0, 5, 0), (3, 0, 6, 0)]
  ∧ (∀ c : Byte, let d : Drive := .fault (.driveFault c)
    (driveCode d, holdReasonCode d, faultCodeField d, driveCodeField d) = (3, 0, 3, c.toNat))
  ∧ (∀ k : StationId, (eventBit k).toNat = 2 ^ k.val ∧ (commandDoneBit k).toNat = 2 ^ (8 + k.val))
  ∧ jobDoneBit.toNat = 2 ^ 16 ∧ jobChangeBit.toNat = 2 ^ 17 ∧ errorLoggedBit.toNat = 2 ^ 18
  ∧ stopChangeBit.toNat = 2 ^ 19 ∧ passCompleteBit.toNat = 2 ^ 20
  ∧ recordOffset .summary = 0x400 ∧ recordOffset .job = 0x420 ∧ recordOffset .errorLog = 0x5E0
  ∧ ∀ k : StationId, recordOffset (.station k) = 0x460 + 0x40 * k.val

/-! ### Records and the copy transform -/

/-- R4: the check word is the complement of the sum of words 0 to 6, a record is check-correct exactly
when its eight words sum to 0xFFFFFFFF, and every copy that the transform hands back is check-correct
(R18). -/
def Obligations.CheckWordComplementsSum : Prop :=
  (∀ r : Record, checkCorrect r = true ↔ r[7] = ~~~(r[0] + r[1] + r[2] + r[3] + r[4] + r[5] + r[6]))
  ∧ (∀ r : Record, checkCorrect r = true ↔
      r[0] + r[1] + r[2] + r[3] + r[4] + r[5] + r[6] + r[7] = 0xFFFFFFFF#32)
  ∧ ∀ (b : Block) (m copy : Record), transform b m = some copy → checkCorrect copy = true

/-- R8: s(v) has the magnitude (2·|v|·p + q) / 2q and the sign of v, is odd-symmetric, and lies within
half of v·p/q. -/
def Obligations.ScalingRoundsToNearest : Prop :=
  ∀ (p q : Nat) (v : Int), 0 < q →
    (scaled p q v).natAbs = (2 * v.natAbs * p + q) / (2 * q)
    ∧ (0 ≤ v → 0 ≤ scaled p q v) ∧ (v < 0 → scaled p q v ≤ 0)
    ∧ scaled p q (-v) = -(scaled p q v)
    ∧ 2 * (scaled p q v * q - v * p).natAbs ≤ q

/-- R9: outside 1..4096 in p or q, every LINE and arc record is a travel fault, and a record of another
kind is still copied; the reset value of both fields is 1. -/
def Obligations.InvalidScalePairFaultsMotion : Prop :=
  (∀ (b : Block) (m : Record) (k : Kind), recKind m = some k →
    ¬(1 ≤ cbScaleP b ∧ cbScaleP b ≤ 4096 ∧ 1 ≤ cbScaleQ b ∧ cbScaleQ b ≤ 4096) →
    (isMotion k = true → transform b m = none)
    ∧ (isMotion k = false → transform b m = some (plainCopy k m)))
  ∧ cbScaleP Block.stationReset = 1 ∧ cbScaleQ Block.stationReset = 1

/-- R12: with exactly one of MX and MY set, an arc's copy is the other arc kind; otherwise, and for
every other kind, the copy's kind is the master's. -/
def Obligations.MirroringExchangesArcKinds : Prop :=
  ∀ (b : Block) (m copy : Record) (k : Kind), recKind m = some k → transform b m = some copy →
    (k = .arcCw → recKind copy = some (if cbMirrorX b ≠ cbMirrorY b then .arcCcw else .arcCw))
    ∧ (k = .arcCcw → recKind copy = some (if cbMirrorX b ≠ cbMirrorY b then .arcCw else .arcCcw))
    ∧ (k ≠ .arcCw → k ≠ .arcCcw → recKind copy = some k)

/-- R13: a LINE copy's angle is oa plus or minus a, modulo 360000, in 0..359999; an arc's word holds the
scaled and mirrored i; in other kinds the word is zero; and neither oa nor a decides whether a LINE
record has a copy. -/
def Obligations.TurntableAngleReduced : Prop :=
  (∀ (b : Block) (m : Record) (w : Word), recKind m = some .line →
    (transform (b.set 5 w) m).isSome = (transform b m).isSome
    ∧ (transform b (m.set 4 w)).isSome = (transform b m).isSome)
  ∧ ∀ (b : Block) (m copy : Record) (k : Kind), recKind m = some k → transform b m = some copy →
    (k = .line →
      (copy[4].toNat : Int) =
          (if cbMirrorA b = true then cbOa b - (m[4].toNat : Int) else cbOa b + (m[4].toNat : Int))
            % 360000
        ∧ copy[4].toNat ≤ 359999)
    ∧ ((k = .arcCw ∨ k = .arcCcw) →
      copy[4].toInt = (if cbMirrorX b = true then -1 else 1)
        * scaled (cbScaleP b) (cbScaleQ b) m[4].toInt)
    ∧ (isMotion k = false → copy[4] = 0#32)

/-- R17: a DWELL, TOOL, MARK or END record is always copied, whatever the settings: coordinates and
flags zero, and feed, speed, tool, SYNC and seq the master's. -/
def Obligations.NonMotionRecordIsCopied : Prop :=
  ∀ (b : Block) (m : Record) (k : Kind), recKind m = some k → isMotion k = false →
    ∃ copy, transform b m = some copy ∧ copy[1] = 0#32 ∧ copy[2] = 0#32 ∧ copy[3] = 0#32 ∧ copy[4] = 0#32
      ∧ copy[5] = 0#32 ∧ recClamped copy = false ∧ recFeedClamp copy = false ∧ recFeed copy = recFeed m
      ∧ recSpeed copy = recSpeed m ∧ recTool copy = recTool m ∧ recSync copy = recSync m
      ∧ recSeq copy = recSeq m

/-- Every copy has the master's seq, tool, SYNC and speed, and word 0 holds no bit above FEEDCLAMP (R18,
R190). A record of a kind that is not valid has a travel fault or a copy with the master's kind and zero
where the other kinds hold a, i and j, whatever the values that no rule states (R12, R13, R190, log 34).
A LINE or arc record has a copy exactly when the scale pair is valid (R9), every value that R15 lists
lies in -2147483648..2147483647, and the endpoint, z after the floor raise, lies within the travel
limits (R16). The copy's endpoint is the scaled, mirrored and offset master (R10), z raised to zfloor
with CLAMPED set exactly when it lay below (R11); an arc's i and j are the X sign times s(i) and the Y
sign times s(j) (R10), and a LINE copy's word after a is zero (R18); the feed is s(feed) brought into
1..65535, with FEEDCLAMP set exactly when it was brought in (R14). The fields of a record are at the
bit positions of Table 12-2 (R190).
The model's own choices it rests on: log 34. -/
def Obligations.MotionCopyFieldsAndPlace : Prop :=
  (∀ (b : Block) (m copy : Record), transform b m = some copy →
      recSeq copy = recSeq m ∧ recTool copy = recTool m ∧ recSync copy = recSync m
      ∧ recSpeed copy = recSpeed m ∧ copy[0].extractLsb' 27 5 = 0#5)
  ∧ (∀ (b : Block) (m : Record), recKind m = none →
      transform b m = none ∨ ∃ f, transform b m = some (unknownCopy m f))
  ∧ (∀ (m : Record) (f : Config.FreeCopy),
      (unknownCopy m f)[0].extractLsb' 16 4 = m[0].extractLsb' 16 4
      ∧ (unknownCopy m f)[4] = 0#32 ∧ (unknownCopy m f)[5] = 0#32)
  ∧ (∀ (b : Block) (m : Record) (k : Kind), recKind m = some k → isMotion k = true →
    let s := scaled (cbScaleP b) (cbScaleQ b)
    let signX : Int := if cbMirrorX b = true then -1 else 1
    let signY : Int := if cbMirrorY b = true then -1 else 1
    let x := cbOx b + signX * s m[1].toInt
    let y := cbOy b + signY * s m[2].toInt
    let raw := cbOz b + s m[3].toInt + cbTlo b
    let z := if raw < cbZfloor b then cbZfloor b else raw
    let feed := s (recFeed m)
    let ranged (v : Int) : Prop := -2147483648 ≤ v ∧ v ≤ 2147483647
    ((∃ copy, transform b m = some copy) ↔
      (1 ≤ cbScaleP b ∧ cbScaleP b ≤ 4096 ∧ 1 ≤ cbScaleQ b ∧ cbScaleQ b ≤ 4096)
      ∧ ranged (s m[1].toInt) ∧ ranged (s m[2].toInt)
      ∧ ranged (signX * s m[1].toInt) ∧ ranged (signY * s m[2].toInt)
      ∧ ranged x ∧ ranged y
      ∧ ranged (s m[3].toInt) ∧ ranged (cbOz b + s m[3].toInt) ∧ ranged raw
      ∧ (k ≠ .line →
          ranged (s m[4].toInt) ∧ ranged (s m[5].toInt)
          ∧ ranged (signX * s m[4].toInt) ∧ ranged (signY * s m[5].toInt))
      ∧ cbXmin b ≤ x ∧ x ≤ cbXmax b ∧ cbYmin b ≤ y ∧ y ≤ cbYmax b ∧ z ≤ cbZmax b)
    ∧ ∀ copy, transform b m = some copy →
      copy[1].toInt = x ∧ copy[2].toInt = y ∧ copy[3].toInt = z
      ∧ (recClamped copy = true ↔ raw < cbZfloor b)
      ∧ (k ≠ .line →
          copy[4].toInt = signX * s m[4].toInt ∧ copy[5].toInt = signY * s m[5].toInt)
      ∧ (k = .line → copy[5] = 0#32)
      ∧ (recFeed copy : Int) = max 1 (min 65535 feed)
      ∧ (recFeedClamp copy = true ↔ ¬(1 ≤ feed ∧ feed ≤ 65535)))
  ∧ ∀ r : Record, (recSeq r).toNat = fieldOf r[0] 0 16
    ∧ recKind r =
      [Kind.line, .arcCw, .arcCcw, .dwell, .tool, .mark, .endJob][fieldOf r[0] 16 4]?
    ∧ (recTool r).toNat = fieldOf r[0] 20 4 ∧ recSync r = r[0].getLsbD 24
    ∧ recClamped r = r[0].getLsbD 25 ∧ recFeedClamp r = r[0].getLsbD 26
    ∧ recFeed r = fieldOf r[6] 0 16 ∧ (recSpeed r).toNat = fieldOf r[6] 16 16

/-! ### Resets and start-up -/

/-- R181: the assertion of PORST_N puts every block in its power-on reset values, clears the latched
boot record, empties the error log, cuts off every frame and leaves the boot loader IDLE; the queue,
the model's time, the BUSRST_N line and the READY pins stay (logs 3, 7, 27).
At the negation of PORST_N the monitors take the levels their lines stand at as qualified, with
their timers stopped and no change made for it, the straps are sampled, and the boot loader enters
WAITING (R181, R183, R129, R134), to watch the course of SCL and SDA that the row brings (log 16); the
links' gaps run from here (log 12); nothing else changes. No frame is being received after the reset
(log 37).
The model's own choices it rests on: logs 3, 7, 12, 16, 27, 37. -/
def Obligations.PowerOnResetAndItsNegation : Prop :=
  (∀ s : State, ∃ t, exec .powerOnReset s = .next t
      ∧ t.porst = true ∧ t.taking = false ∧ t.boot = Boot.reset ∧ t.log = none
      ∧ t.proc.current = none ∧ t.cache = Cache.reset ∧ t.shadows = Shadows.reset ∧ t.job = Job.reset
      ∧ (∀ k : StationId, t.stations[k] = Station.reset
          ∧ t.links[k] = { Link.reset with ready := s.links[k].ready, gapFrom := s.now })
      ∧ t.gate = Gate.reset ∧ t.replay = Replay.reset ∧ t.port = Port.reset ∧ t.writer = Writer.reset
      ∧ t.now = s.now ∧ t.pending = s.pending ∧ t.busrst = s.busrst)
  ∧ ∀ (s : State) (v : InputLevels), s.porst = true → ∃ t,
    exec (.porstNegation v) s = .next t
    ∧ t.porst = false
    ∧ (∀ k : StationId, t.breaks[k] = ⟨v.breaks.getLsbD k.val, v.breaks.getLsbD k.val, none⟩
        ∧ t.links[k] = { s.links[k] with gapFrom := s.now })
    ∧ t.stop = ⟨v.stopHigh, v.stopHigh, none⟩
    ∧ t.boot = { s.boot with
        state := .waiting, waitingSince := s.now, bus := v.bus
        strapA := v.strapA, strapB := v.strapB }
    ∧ t = { s with porst := t.porst, breaks := t.breaks, stop := t.stop, links := t.links,
                   boot := t.boot }

/-- The assertion of BUSRST_N (R182): every block takes its bus reset values and all work in flight is
abandoned; the boot loader's state and the latched record, the error log, the input monitors and the
links' transmit work are kept. On each link the frame in transmission goes on, a pending HALT stays,
an unbegun GO is withdrawn with nothing owed, a drive that was RUNNING is otherwise owed a HALT with
reason 0x20, and the line settings are kept while that work lasts (R128, R188): the link has that work
exactly while a frame is in transmission or a HALT stands in the slot. The gap before the next frame
is counted from here (log 12). The READY input is a pin's level and is kept (log 7), and a frame being
received is not discarded at once but dropped as its end comes (log 14). A transaction in flight is abandoned: the answer that memory gives to it
afterwards, in any of the twelve answer rows, changes nothing (R180, log 31).
The model's own choices it rests on: logs 7, 12, 14, 31. -/
def Obligations.BusResetValues : Prop :=
  (∀ s : State, s.porst = false → s.busrst = false → ∃ t, exec .busReset s = .next t
    ∧ t.busrst = true ∧ t.taking = false ∧ t.boot = { s.boot with pass := none } ∧ t.log = s.log
    ∧ t.breaks = s.breaks ∧ t.stop = s.stop ∧ t.porst = false ∧ t.now = s.now
    ∧ t.pending = s.pending ∧ t.proc = ⟨none, none⟩ ∧ t.cache = Cache.reset
    ∧ t.shadows = Shadows.reset ∧ t.job = Job.reset ∧ t.gate = Gate.reset ∧ t.replay = Replay.reset
    ∧ t.port = Port.reset ∧ t.writer = Writer.reset
    ∧ ∀ k : StationId, t.stations[k] = Station.reset
      ∧ t.links[k].queue = [] ∧ t.links[k].staging = .empty ∧ t.links[k].drain = none
      ∧ t.links[k].outstanding = none ∧ t.links[k].ackTimer = none ∧ t.links[k].retry = 0
      ∧ t.links[k].fullWait = false ∧ t.links[k].waitMark = false
      ∧ (∀ f, t.links[k].rx = some f → f.mode = .dropped)
      ∧ t.links[k].tx = s.links[k].tx.map Tx.void ∧ t.links[k].ready = s.links[k].ready
      ∧ (∀ r, s.links[k].slot = .halt r → t.links[k].slot = .halt r)
      ∧ (s.links[k].slot = .go → t.links[k].slot = .empty)
      ∧ (s.links[k].slot = .empty → s.stations[k].drive = .running →
          t.links[k].slot = .halt 0x20#8)
      ∧ (s.links[k].slot = .empty → s.stations[k].drive ≠ .running → t.links[k].slot = .empty)
      ∧ (t.links[k].resetWork = true ↔ t.links[k].tx ≠ none ∨ t.links[k].slot ≠ .empty)
      ∧ t.links[k].gapFrom = s.now
      ∧ (t.links[k].tx.isSome = true ∨ t.links[k].slot ≠ .empty → t.links[k].line = s.links[k].line)
      ∧ (t.links[k].tx = none ∧ t.links[k].slot = .empty → t.links[k].line = LineSettings.reset))
  ∧ ∀ s : State,
    exec (.initWriteAnswer .abandoned) s = .next s ∧ exec (.scanReadAnswer .abandoned) s = .next s
    ∧ exec (.detailReadAnswer .abandoned) s = .next s ∧ exec (.forwardAnswer .abandoned) s = .next s
    ∧ exec (.journalWriteAnswer .abandoned) s = .next s
    ∧ exec (.postWriteAnswer .abandoned) s = .next s
    ∧ exec (.openComplete .abandoned) s = .next s ∧ exec (.attachComplete .abandoned) s = .next s
    ∧ exec (.replayReadAnswer .abandoned) s = .next s
    ∧ exec (.replayWriteAnswer .abandoned) s = .next s
    ∧ exec (.statusWriteAnswer .abandoned) s = .next s
    ∧ exec (.drainReadAnswer .abandoned) s = .next s

/-- R186: at the negation of BUSRST_N with the boot read DONE the initialization pass begins; with the
read still running only the line changes, and the pass waits for the read's DONE.
An attempt begins from WAITING when the boot bus is first free, within 100 ms of the entry into WAITING,
at 100 ms too (R183, log 36): the bus is free at a STOP, or when both lines have stayed high for 100 µs.
The loader then makes START, 0x50 with the write bit, 0x00, a repeated START, 0x50 with the read bit,
sixteen bytes acknowledged but the last, and STOP, most significant bit first; each act of it is
spelled in the levels that the loader drives on SCL and SDA. A bus that is not free in time begins no
attempt (log 2). A lost arbitration below 4 counted attempts counts one, releases the lines, discards
the bytes and waits again (R184); nothing else changes. The times of the course rise, as the row that
brings it is well-formed (log 16).
The model's own choices it rests on: logs 2, 3, 16, 27, 36. -/
def Obligations.PassAndBootAttemptsBegin : Prop :=
  (∀ s : State, s.porst = false → s.busrst = true →
      (s.boot.state = .done →
        exec .busrstNegation s = .next { s with busrst := false, boot := { s.boot with pass := some 0 } })
      ∧ (s.boot.state ≠ .done → exec .busrstNegation s = .next { s with busrst := false }))
  ∧ (∀ (s : State) (lost : LostAttempt), s.porst = false →
    let bit (b : Byte) (i : Nat) : BusAct := .send (b.getLsbD i)
    let sent (b : Byte) : List BusAct :=
      [bit b 7, bit b 6, bit b 5, bit b 4, bit b 3, bit b 2, bit b 1, bit b 0, .awaitAck]
    let data (ack : BusAct) : List BusAct := List.replicate 8 .receive ++ [ack]
    let exchange : List BusAct := [.start] ++ sent 0xA0#8 ++ sent 0x00#8 ++ [.restart] ++ sent 0xA1#8
      ++ (List.replicate 15 (data .acknowledge)).flatten ++ data .notAcknowledge ++ [.stop]
    (∀ t, s.boot.state = .waiting → s.boot.bus.wellFormed = true → BusFirstFree s.boot.bus t →
      (t ≤ 4800000 → exec .bootAttempt s = .next { s with
          now := max s.now (s.boot.waitingSince + t)
          boot := { s.boot with state := .reading, bytes := [], drives := exchange } })
      ∧ (4800000 < t → exec .bootAttempt s = .next s))
    ∧ (s.boot.state = .waiting → s.boot.bus.wellFormed = true → (∀ t, ¬BusFree s.boot.bus t) →
      exec .bootAttempt s = .next s)
    ∧ (s.boot.state = .reading → s.boot.attempts < 4 →
      exec (.bootArbitrationLost lost) s = .next { s with boot := { s.boot with
        state := .waiting, attempts := s.boot.attempts + 1, bytes := [], waitingSince := s.now
        bus := lost.bus, drives := [] } }))
  ∧ (∀ s : State, s.bootLines = s.boot.drives.flatMap fun a =>
    let bit (low : Bool) : List BusDrive := [⟨true, low⟩, ⟨false, low⟩, ⟨true, low⟩]
    match a with
    | .start => [⟨false, false⟩, ⟨false, true⟩, ⟨true, true⟩]
    | .restart => [⟨true, false⟩, ⟨false, false⟩, ⟨false, true⟩, ⟨true, true⟩]
    | .stop => [⟨true, true⟩, ⟨false, true⟩, ⟨false, false⟩]
    | .send b => bit (!b)
    | .awaitAck => bit false
    | .receive => bit false
    | .acknowledge => bit true
    | .notAcknowledge => bit false)

/-- A boot read that ends in the strap defaults enters DONE with a window space at 0x4000_0000 of 256 MB
and the control page of Table 11-2, and the pass begins if BUSRST_N is negated (R185, R186). The boot
bus not free within 100 ms of the latest entry into WAITING ends it so when the 100 ms have passed, and
not before (R183, log 3); a bus that has become free in time does not (log 2). A missing acknowledge has
STOP sent, and the other endings release the lines (R184). No device logs nothing; the other endings
log BOOT_BAD with origin BOOT, direction READ, station NONE, the cause in the address and bytes 0 to 3
in the data word, into a log that is empty, with bit 18 owed and the error log marked (R169, R184,
R185).
The model's own choices it rests on: logs 2, 3, 16, 26, 36. -/
def Obligations.StrapDefaultsTaken : Prop :=
  ∀ (s : State) (got : List Byte) (lost : LostAttempt), s.porst = false → s.log = none →
    let page := if s.boot.strapB then (if s.boot.strapA then 0x0FFFF800#32 else 0x00FFF800#32)
      else (if s.boot.strapA then 0x000FF800#32 else 0x0000F800#32)
    let ends (i : Instr) (now : Nat) (got : List Byte) (drives : List BusAct) (cause : Option Nat) : Prop :=
      EndsIn i s { s with
          now := now
          boot := { s.boot with
            state := .done, bytes := got, drives := drives
            latched := some ⟨page, 0x40000000#32, 8⟩
            pass := if s.busrst then s.boot.pass else some 0 }
          log := cause.map fun c =>
            ⟨.bootBad, .boot, false, BitVec.ofNat 32 c, bootFirstWord got, none, 0#8⟩ }
        (if cause.isSome then s.writer.owed.plus .errorLog (placeFlag true 18) else s.writer.owed)
        (if cause.isSome then [.errorLog] else [])
    (s.boot.state = .waiting → s.boot.bus.wellFormed = true →
      ((∀ t, t ≤ 4800000 → ¬BusFree s.boot.bus t) →
        ends .bootBusBusyTimeout (max s.now (s.boot.waitingSince + 4800000)) s.boot.bytes s.boot.drives
          (some 8))
      ∧ (∀ t, t ≤ 4800000 → BusFree s.boot.bus t → exec .bootBusBusyTimeout s = .next s))
    ∧ (s.boot.state = .reading →
      ends .bootDeviceNack s.now s.boot.bytes [.stop] none
      ∧ ends .bootAddressNack s.now s.boot.bytes [.stop] (some 6)
      ∧ ends (.bootStretchTimeout got) s.now got [] (some 7)
      ∧ (4 ≤ s.boot.attempts → ends (.bootArbitrationLost lost) s.now lost.got [] (some 1)))
    ∧ ∀ l : List Byte, bootFirstWord l = l.getD 3 0#8 ++ l.getD 2 0#8 ++ l.getD 1 0#8 ++ l.getD 0 0#8

/-- At the end of the sixteen bytes an accepted record is latched, and a record that fails a test is
discarded for the strap defaults with BOOT_BAD and the cause of the first failing test, in the order
SIGNATURE, CHECK, ALIGN, OVERLAP, bit 18 owed and the error log marked (R169, R185). -/
def Obligations.BootRecordDecides : Prop :=
  ∀ (s : State) (b : Vector Byte 16), s.porst = false → s.boot.state = .reading → s.log = none →
    let page : Word := b[5] ++ b[4] ++ b[3] ++ b[2]
    let window : Word := b[9] ++ b[8] ++ b[7] ++ b[6]
    let w := b[10].toNat
    let signature : Prop := b[0] = 0x4B#8 ∧ b[1] = 0x36#8
    let sums : Prop := byteSum b.toList = 0#8
    let aligned : Prop :=
      page.toNat % 2048 = 0 ∧ w ≤ 10 ∧ window.toNat % (1048576 * 2 ^ w) = 0
    let apart : Prop := ∀ a : Nat, ¬((page.toNat ≤ a ∧ a < page.toNat + 2048)
      ∧ (window.toNat ≤ a ∧ a < window.toNat + 1048576 * 2 ^ w))
    let defaults (cause : Nat) : Prop := ∃ t, exec (.bootReadEnd b) s = .next t
      ∧ t.boot.state = .done
      ∧ t.boot.latched = some (strapRegions s.boot.strapB s.boot.strapA) ∧ t.boot.drives = []
      ∧ (t.boot.pass = if s.busrst then s.boot.pass else some 0)
      ∧ t.log = some ⟨.bootBad, .boot, false, BitVec.ofNat 32 cause, b[3] ++ b[2] ++ b[1] ++ b[0],
          none, 0#8⟩
      ∧ t.writer.owed = s.writer.owed.plus .errorLog (placeFlag true 18)
      ∧ t.writer.marks.get .errorLog = true
      ∧ t = { s with boot := t.boot, log := t.log, writer := t.writer }
    (signature → sums → aligned → apart → ∃ t, exec (.bootReadEnd b) s = .next t
      ∧ t.boot.state = .done ∧ t.boot.latched = some ⟨page, window, w⟩ ∧ t.log = none
      ∧ t.boot.drives = []
      ∧ (t.boot.pass = if s.busrst then s.boot.pass else some 0)
      ∧ t = { s with boot := t.boot })
    ∧ (¬signature → defaults 2) ∧ (signature → ¬sums → defaults 3)
    ∧ (signature → sums → ¬aligned → defaults 4)
    ∧ (signature → sums → aligned → ¬apart → defaults 5)

/-- The answer to a pass write that the port carries (R186, R187): OK sets the pending bits owed to it;
FAULT is logged with origin STATUS (R169) and marks a status record again with its owed bits returned;
either way the pass goes on with the next write, and after the last, the summary, it ends and the processor's
transactions are taken. The first half of a 64-byte record answered OK is followed at once by its
second half, and answered FAULT ends that record's write (R164, R177, log 13).
The model's own choices it rests on: logs 13, 29. -/
def Obligations.PassWriteAnswered : Prop :=
  ∀ (s : State) (i : Nat) (w : StatusWrite) (txn : MemTxn), s.porst = false →
    s.boot.pass = some i → s.writer.write = some w → s.port.inFlight = some ⟨.status, txn⟩ →
    let goes (n : Nat) (t : State) : Prop :=
      t = { s with boot := t.boot, taking := t.taking, port := t.port, log := t.log, writer := t.writer }
      ∧ (n ≤ 61 → t.boot = { s.boot with pass := some n } ∧ t.taking = s.taking)
      ∧ (61 < n → t.boot = { s.boot with pass := none } ∧ t.taking = true)
    (w.upper = none → ∃ t, AnswerGives .initWriteAnswer .ok s t ∧ goes (i + 1) t
      ∧ t.writer.pending = s.writer.pending ||| w.owed ∧ t.writer.write = none
      ∧ t.port = { s.port with inFlight := none, hold := none } ∧ t.log = s.log)
    ∧ (∀ addr r, w.upper = some (addr, r) → ∃ t, AnswerGives .initWriteAnswer .ok s t
      ∧ goes (i + 1) t ∧ t.writer.pending = s.writer.pending
      ∧ t.writer.write = some { w with upper := none }
      ∧ t.port = { s.port with
          inFlight := some ⟨.status, ⟨.status, addr, .write (r.toList.map asWhole)⟩⟩ }
      ∧ t.log = s.log)
    ∧ (∃ t, AnswerGives .initWriteAnswer .fault s t
      ∧ goes (if w.upper.isSome then i + 2 else i + 1) t
      ∧ t.writer.pending = s.writer.pending ∧ t.writer.write = none
      ∧ t.port = { s.port with inFlight := none, hold := none }
      ∧ (∀ r, w.record = some r → t.writer.marks.get r = true)
      ∧ t.writer.owed = (match w.record with
          | some r => s.writer.owed.plus r w.owed
          | none => s.writer.owed).logged s.log
      ∧ t.writer.marks.get .errorLog = true
      ∧ t.log = loggedWith s.log ⟨.memFault, .status, true, txn.addr, txnFirstData txn,
          recordStation w.record, 0#8⟩)

/-! ### The processor port, the transit path and the window cache -/

/-- Before the pass has ended every transaction is answered RETRY, and one whose bytes do not lie in one
aligned 32-byte block is then answered ERROR BURST_CROSS (R139).
An access outside both regions, and a read of the control page, is forwarded to memory at its own
address with no descriptor looked up (R141, R142); an access of window space that no cache entry
matches starts the descriptor search (R147, R148). Nothing else changes.
Memory's answer to a forwarded access frees the port and answers the processor: DONE, with the words
of a read, for OK; ERROR MEM_FAULT, logged under the address presented, for FAULT (R141, R155).
The model's own choices it rests on: logs 24, 29. -/
def Obligations.AccessAnsweredOrRouted : Prop :=
  (∀ (s : State) (i : Instr) (p : ProcTxn),
      ((∃ a n, i = .processorRead a n ∧ p = .read a n) ∨ (∃ t, presentsWrite i t ∧ p = .write t)) →
      s.proc.current = none →
      (s.taking = false → AnsweredRetry i s)
      ∧ (s.taking = true → ¬((byteAddr p.addr).toNat % 32 + 4 * p.count ≤ 32) →
          RefusedFrom i s s p .burstCross))
  ∧ (∀ (s : State) (r : Regions) (i : Instr) (p : ProcTxn),
    ((∃ a n, i = .processorRead a n ∧ p = .read a n) ∨ (∃ t, presentsWrite i t ∧ p = .write t)) →
    PortTakes s r → inOneBlock p = true →
    let a := byteAddr p.addr
    (inPage r a = true → p.isWrite = false →
      exec i s = .next { s with proc := ⟨some ⟨p, .forward a⟩, none⟩ })
    ∧ (inPage r a = false → inWindowSpace r a = false →
      exec i s = .next { s with proc := ⟨some ⟨p, .forward a⟩, none⟩ })
    ∧ (inPage r a = false → inWindowSpace r a = true → cacheHit s.cache a = none →
      exec i s = .next { s with proc := ⟨some ⟨p, .scan []⟩, none⟩ }))
  ∧ ∀ (s : State) (p : ProcTxn) (addr : Word) (m : MemTxn) (data : List Word), s.porst = false →
    s.proc.current = some ⟨p, .forward addr⟩ → s.port.inFlight = some ⟨.transit, m⟩ →
    AnswerGives .forwardAnswer (.ok data) s { s.freed with
      proc := ⟨none, some (.done (if p.isWrite then [] else data.take p.count))⟩ }
    ∧ RefusedAnswer .forwardAnswer .fault s s.freed p .memFault

/-- An access that hits a cached window makes its entry the most recently used (R147) and is handled by
the window: a PASS window forwards to the translated address or refuses with ACCESS (R152), a JOURNAL
window that is not the journal refuses writes with NO_JOB (R153), a RING window refuses writes with
ACCESS (R154), and reads of journals and rings are forwarded at their own address (R33, R154). An entry
matches an address that lies in its descriptor's range (R147). -/
def Obligations.WindowHitHandled : Prop :=
  (∀ (c : Cache) (a : Word),
    (cacheHit c a = none ↔
      ∀ (n : Fin 8) (e : CacheEntry), c.entries[n] = some e → inRange e.desc.w0 e.desc.w1 a = false)
    ∧ ∀ (n : Fin 8) (e : CacheEntry), cacheHit c a = some (n, e) →
      c.entries[n] = some e ∧ inRange e.desc.w0 e.desc.w1 a = true)
  ∧ ∀ (s : State) (r : Regions) (i : Instr) (p : ProcTxn) (n : Fin 8) (e : CacheEntry),
    ((∃ a c, i = .processorRead a c ∧ p = .read a c) ∨ (∃ t, presentsWrite i t ∧ p = .write t)) →
    PortTakes s r → inOneBlock p = true →
    let a := byteAddr p.addr
    let touched : Cache := ⟨s.cache.entries, n :: s.cache.recency.filter (fun j => j != n)⟩
    let forwarded (addr : Word) : Prop :=
      exec i s = .next { s with cache := touched, proc := ⟨some ⟨p, .forward addr⟩, none⟩ }
    let refused (kind : ErrorKind) : Prop := RefusedFrom i s { s with cache := touched } p kind
    inPage r a = false → inWindowSpace r a = true → cacheHit s.cache a = some (n, e) →
    (descKind e.desc.w0 = some .pass →
      (descAccess e.desc = 0 → refused .access)
      ∧ (descAccess e.desc = 1 → p.isWrite = true → refused .access)
      ∧ (descAccess e.desc = 1 → p.isWrite = false → forwarded (e.desc.w3 + (a - e.desc.w1)))
      ∧ (descAccess e.desc = 2 → forwarded (e.desc.w3 + (a - e.desc.w1))))
    ∧ (descKind e.desc.w0 = some .journal →
      (p.isWrite = false → forwarded a)
      ∧ (p.isWrite = true → (s.job.state = .noJob ∨ s.job.journal ≠ some e.index) →
          refused .noJob))
    ∧ (descKind e.desc.w0 = some .ring →
      (p.isWrite = false → forwarded a) ∧ (p.isWrite = true → refused .access))

/-- The scan reads the 32 descriptors in order and then decides (R148): UNMAPPED when no valid range
holds the address, else OVERLAP when another valid range overlaps that of the lowest such descriptor,
else the detail read of it; FAULT ends the search and is logged with origin TABLE (R149, R169). Every
end of a search is counted (R151). The range of a descriptor of size code n is the block of 512 × 2^n
bytes that contains its base and is aligned to that size; two ranges overlap when they share a byte
(R145).
The model's own choices it rests on: log 29. -/
def Obligations.ScanReadAnswered : Prop :=
  (∀ (s : State) (p : ProcTxn) (got : List (Word × Word)) (m : MemTxn) (v : Vector Word 2),
    s.porst = false → s.proc.current = some ⟨p, .scan got⟩ →
    s.port.inFlight = some ⟨.transit, m⟩ →
    let all := got ++ [(v[0], v[1])]
    let a := byteAddr p.addr
    let holds (j : Nat) : Prop := ∃ w0 w1, all[j]? = some (w0, w1) ∧ descValid w0 = true
      ∧ inRange w0 w1 a = true
    let counted : State := { s.freed with job := { s.job with searches := satInc s.job.searches } }
    (all.length < 32 → AnswerGives .scanReadAnswer (.ok v) s
        { s.freed with proc := ⟨some ⟨p, .scan all⟩, none⟩ })
    ∧ (32 ≤ all.length → (∀ j, ¬holds j) →
        RefusedAnswer .scanReadAnswer (.ok v) s counted p .unmapped)
    ∧ (∀ j w0 w1, 32 ≤ all.length → all[j]? = some (w0, w1) → holds j → (∀ l < j, ¬holds l) →
        let overlapped : Prop := ∃ l x0 x1, l ≠ j ∧ all[l]? = some (x0, x1) ∧ descValid x0 = true
          ∧ rangesOverlap x0 x1 w0 w1 = true
        (overlapped → RefusedAnswer .scanReadAnswer (.ok v) s counted p .overlap)
        ∧ (¬overlapped → AnswerGives .scanReadAnswer (.ok v) s
            { s.freed with proc := ⟨some ⟨p, .detail (BitVec.ofNat 5 j) w0 w1⟩, none⟩ }))
    ∧ AnswerEndsIn .scanReadAnswer .fault s
        { counted with
          proc := ⟨none, some (.error .memFault)⟩
          log := loggedWith s.log
            ⟨.memFault, .table, false, descAddr s got.length, 0#32, none, 0#8⟩ }
        (s.writer.owed.logged s.log) [.errorLog])
  ∧ ∀ w0 w1 : Word,
    let covers (v0 v1 : Word) (b : Nat) : Prop :=
      let size := 512 * 2 ^ fieldOf v0 8 4
      v1.toNat / size * size ≤ b ∧ b < v1.toNat / size * size + size
    (descValid w0 = true ↔ w0.getLsbD 0 = true)
    ∧ (∀ a : Word, inRange w0 w1 a = true ↔ covers w0 w1 a.toNat)
    ∧ ∀ x0 x1 : Word, rangesOverlap x0 x1 w0 w1 = true ↔ ∃ b, covers x0 x1 b ∧ covers w0 w1 b

/-- The detail read completes the descriptor (R149): one that is not usable (R144) is refused with
BAD_DESC; a usable one is placed in the cache and the access is handled by its window as a hit would
have been (R152 to R154); FAULT ends the search and is logged with origin TABLE (R169). Each ends the search and is
counted (R151). A valid descriptor is usable when it holds no reserved value, its base is aligned to
its size, and its kind allows the rest: for PASS, an aligned translate base whose block is clear of the
control page; for JOURNAL, a size code of 2 to 10; for RING, one of 0 to 6 and a station of 0 to 5.
The model's own choices it rests on: log 29. -/
def Obligations.DetailReadAnswered : Prop :=
  (∀ (s : State) (p : ProcTxn) (index : BitVec 5) (w0 w1 : Word) (m : MemTxn) (v : Vector Word 2),
    s.porst = false → s.proc.current = some ⟨p, .detail index w0 w1⟩ →
    s.port.inFlight = some ⟨.transit, m⟩ →
    let d : Descriptor := ⟨w0, w1, v[0], v[1]⟩
    let counted : State := { s.freed with job := { s.job with searches := satInc s.job.searches } }
    (descUsable (pageBase s) d = false →
      RefusedAnswer .detailReadAnswer (.ok v) s counted p .badDesc)
    ∧ (descUsable (pageBase s) d = true → AnswerGives .detailReadAnswer (.ok v) s
        (report s (actOnWindow p index d
          { counted with cache := s.cache.fill ⟨index, d⟩ })))
    ∧ (descUsable (pageBase s) d = true →
      let filled : State := { counted with cache := s.cache.fill ⟨index, d⟩ }
      let forwarded (addr : Word) : Prop := AnswerEndsIn .detailReadAnswer (.ok v) s
        { filled with proc := ⟨some ⟨p, .forward addr⟩, none⟩ } s.writer.owed []
      let refused (kind : ErrorKind) : Prop := RefusedAnswer .detailReadAnswer (.ok v) s filled p kind
      let a := byteAddr p.addr
      (descKind w0 = some .pass →
        (descAccess d = 0 ∨ (descAccess d = 1 ∧ p.isWrite = true) → refused .access)
        ∧ (descAccess d = 2 ∨ (descAccess d = 1 ∧ p.isWrite = false) → forwarded (v[1] + (a - w1))))
      ∧ (descKind w0 = some .journal →
        (p.isWrite = false → forwarded a)
        ∧ (p.isWrite = true → (s.job.state = .noJob ∨ s.job.journal ≠ some index) → refused .noJob))
      ∧ (descKind w0 = some .ring →
        (p.isWrite = false → forwarded a) ∧ (p.isWrite = true → refused .access)))
    ∧ AnswerEndsIn .detailReadAnswer .fault s
        { counted with
          proc := ⟨none, some (.error .memFault)⟩
          log := loggedWith s.log
            ⟨.memFault, .table, false, descAddr s index.toNat + 8#32, 0#32, none, 0#8⟩ }
        (s.writer.owed.logged s.log) [.errorLog])
  ∧ ∀ (page : Word) (d : Descriptor),
    let n := fieldOf d.w0 8 4
    let kind := fieldOf d.w0 4 2
    let size := 512 * 2 ^ n
    descUsable page d = true ↔
      kind ≠ 3 ∧ fieldOf d.w2 0 2 ≠ 3 ∧ fieldOf d.w2 4 2 ≠ 3 ∧ d.w1.toNat % size = 0
      ∧ (kind = 0 → d.w3.toNat % size = 0
          ∧ (d.w3.toNat + size ≤ page.toNat ∨ page.toNat + 2048 ≤ d.w3.toNat))
      ∧ (kind = 1 → 2 ≤ n ∧ n ≤ 10)
      ∧ (kind = 2 → n ≤ 6 ∧ fieldOf d.w2 8 3 ≤ 5)

/-- R150: a descriptor fills the invalid entry of lowest number; with none invalid it replaces, among
the entries of the lowest priority present, the one least recently used; the filled entry becomes the
most recently used, and the others keep their order. -/
def Obligations.CacheFillChoosesItsEntry : Prop :=
  ∀ (c : Cache) (e : CacheEntry),
    let fills (i : Fin 8) : Prop := c.fill e =
      ⟨c.entries.set i (some e), i :: c.recency.filter (fun j => j != i)⟩
    (∀ i : Fin 8, c.entries[i] = none → (∀ j : Fin 8, j < i → c.entries[j] ≠ none) → fills i)
    ∧ ((∀ i : Fin 8, c.entries[i] ≠ none) → (∀ i : Fin 8, i ∈ c.recency) → c.recency.Nodup →
        (∀ i : Fin 8, entryPriority c i ≤ 2) →
        ∃ i, fills i ∧ ∀ j : Fin 8, entryPriority c i ≤ entryPriority c j
          ∧ (entryPriority c j = entryPriority c i → c.recency.idxOf j ≤ c.recency.idxOf i))

/-! ### The control page -/

/-- What each whole word of a page write decides (R143, R157, R159 to R161), and PARTIAL for one that is
not whole (R142). A word of a descriptor that is both latched and named by a command in progress is
refused, which is the model's choice (log 28).
A page write is decided on all its words together (R142): the refused word at the lowest address
refuses it, else any RETRY answers it RETRY, and otherwise its words are applied in order and it is
forwarded to memory unchanged.
The model's own choices it rests on: log 28. -/
def Obligations.PageWritesDecided : Prop :=
  (∀ (s : State) (offset : Nat) (w : WriteWord),
    (w.enables ≠ 0xF#4 → wordDecision s offset w = .refused .partialWord)
    ∧ (w.enables = 0xF#4 →
      (∀ d : BitVec 5, offset / 16 = d.toNat → offset < 0x200 →
        ((s.job.journal = some d ∨ ∃ k : StationId, s.stations[k].ring = some d) →
          wordDecision s offset w = .refused .configLocked)
        ∧ (¬(s.job.journal = some d ∨ ∃ k : StationId, s.stations[k].ring = some d) →
          ((∃ q, s.job.opening = some (d, q))
              ∨ ∃ k : StationId, ∃ q, s.stations[k].progress = .attaching d q) →
          wordDecision s offset w = .retry)
        ∧ (¬(s.job.journal = some d ∨ ∃ k : StationId, s.stations[k].ring = some d) →
          ¬((∃ q, s.job.opening = some (d, q))
              ∨ ∃ k : StationId, ∃ q, s.stations[k].progress = .attaching d q) →
          wordDecision s offset w = .taken))
      ∧ (∀ (k : StationId) (n : Fin 16), offset = 0x200 + 0x40 * k.val + 4 * n.val →
        (n.val ≤ 12 → s.stations[k].feed ≠ .off →
          wordDecision s offset w = .refused .configLocked)
        ∧ (n.val ≤ 12 → s.stations[k].feed = .off → wordDecision s offset w = .taken)
        ∧ (n.val = 15 → s.stations[k].progress ≠ .idle → wordDecision s offset w = .retry)
        ∧ (n.val = 15 → s.stations[k].progress = .idle → wordDecision s offset w = .taken)
        ∧ (n.val = 13 ∨ n.val = 14 → wordDecision s offset w = .taken))
      ∧ (∀ n : Fin 16, offset = 0x380 + 4 * n.val →
        (n.val = 0 → s.job.state ≠ .noJob → wordDecision s offset w = .refused .configLocked)
        ∧ (n.val = 0 → s.job.state = .noJob → wordDecision s offset w = .taken)
        ∧ (n.val = 15 → s.job.opening ≠ none → wordDecision s offset w = .retry)
        ∧ (n.val = 15 → s.job.opening = none → wordDecision s offset w = .taken)
        ∧ (0 < n.val → n.val < 15 → wordDecision s offset w = .taken))
      ∧ (0x3C0 ≤ offset → offset < 0x400 → wordDecision s offset w = .taken)
      ∧ (0x400 ≤ offset → wordDecision s offset w = .refused .statusWrite)))
  ∧ ∀ (s : State) (r : Regions) (i : Instr) (t : WriteTxn), presentsWrite i t → PortTakes s r →
    inOneBlock (.write t) = true → inPage r (byteAddr t.addr) = true →
    let offset := (byteAddr t.addr).toNat - r.page.toNat
    let ds := decisions s offset (txnWords t)
    (∀ pre post kind, ds = pre ++ .refused kind :: post →
        (∀ d ∈ pre, d = .taken ∨ d = .retry) → RefusedFrom i s s (.write t) kind)
    ∧ ((∀ d ∈ ds, d = .taken ∨ d = .retry) → .retry ∈ ds → AnsweredRetry i s)
    ∧ ((∀ d ∈ ds, d = .taken) → exec i s =
        .next (report s ((applyWords offset (txnWords t) s).forwardsPage t)))

/-- A taken write that lies in the descriptor table empties the window cache and touches nothing else of
the part (R143).
A taken setting goes into its shadow, and into the link where it is a line setting and no work of a
bus reset is under way (R101, R158). A command word with code 0, of a station or of the job, is stored
and starts nothing (R23, R60, R161); so is the overwrite policy word, which is taken in job state NONE
(R27, R158, R160), and a word of the job control block that carries no field. A write of the unused
area is forwarded alone (R157). Nothing else of the part changes. The fields of a station control block
are at the bit positions of Table 12-5, a value wider than its meaning acting as Table 12-1 says.
The model's own choices it rests on: log 8. -/
def Obligations.TableAndSettingWritesTaken : Prop :=
  (∀ (s : State) (r : Regions) (t : WriteTxn), PortTakes s r → inOneBlock (.write t) = true →
      inPage r (byteAddr t.addr) = true →
      (byteAddr t.addr).toNat - r.page.toNat + 4 * (txnWords t).length ≤ 0x200 →
      (∀ d ∈ decisions s ((byteAddr t.addr).toNat - r.page.toNat) (txnWords t), d = .taken) →
      exec (.descriptorTableWrite t) s = .next { s with
        cache := Cache.reset, proc := ⟨some ⟨.write t, .forward (byteAddr t.addr)⟩, none⟩ })
  ∧ (∀ (s : State) (r : Regions) (n : Fin 16) (v : Word), PortTakes s r →
    let write (offset : Nat) : WriteTxn := ⟨pageWordAddr s offset, ⟨v, 0xF#4⟩, []⟩
    let taken (offset : Nat) (u : State) : Prop := exec (.controlBlockWrite (write offset)) s = .next
      { u with proc := ⟨some ⟨.write (write offset), .forward (byteAddr (write offset).addr)⟩, none⟩ }
    (∀ k : StationId, (n.val ≤ 12 ∧ s.stations[k].feed = .off) ∨ n.val = 13
        ∨ (n.val = 15 ∧ s.stations[k].progress = .idle ∧ v.extractLsb' 0 4 = 0#4) →
      let block := s.shadows.stations[k].set n v
      taken (0x200 + 0x40 * k.val + 4 * n.val) { s with
        shadows := { s.shadows with stations := s.shadows.stations.set k block }
        links := if n.val = 12 ∧ s.links[k].resetWork = false then
            s.links.set k { s.links[k] with line := cbLine block } else s.links })
    ∧ ((n.val = 0 ∧ s.job.state = .noJob) ∨ (3 ≤ n.val ∧ n.val ≤ 14)
        ∨ (n.val = 15 ∧ s.job.opening = none ∧ v.extractLsb' 0 4 = 0#4) →
      taken (0x380 + 4 * n.val) { s with
        shadows := { s.shadows with job := s.shadows.job.set n v } })
    ∧ taken (0x3C0 + 4 * n.val) s)
  ∧ ∀ b : Block, let field (n : Fin 16) (pos width : Nat) : Nat := fieldOf b[n] pos width
    (cbRingIndex b).toNat = field 0 0 5 ∧ (cbLagDetach b = true ↔ field 0 8 2 = 1)
    ∧ cbMirrorX b = b[0].getLsbD 16 ∧ cbMirrorY b = b[0].getLsbD 17 ∧ cbMirrorA b = b[0].getLsbD 18
    ∧ cbScaleP b = field 1 0 16 ∧ cbScaleQ b = field 1 16 16
    ∧ cbOx b = b[2].toInt ∧ cbOy b = b[3].toInt ∧ cbOz b = b[4].toInt ∧ cbOa b = b[5].toInt
    ∧ cbZfloor b = b[6].toInt ∧ cbZmax b = b[7].toInt ∧ cbXmin b = b[8].toInt
    ∧ cbXmax b = b[9].toInt ∧ cbYmin b = b[10].toInt ∧ cbYmax b = b[11].toInt
    ∧ (cbLine b).divisor.toNat = field 12 0 8
    ∧ (cbLine b).parity = (if field 12 8 2 = 1 then .even else if field 12 8 2 = 2 then .odd else .none)
    ∧ (cbLine b).twoStopBits = b[12].getLsbD 10 ∧ (cbLine b).invert = b[12].getLsbD 11
    ∧ cbQueueDepth b =
      (if field 12 12 4 = 0 then 1 else if 8 < field 12 12 4 then 8 else field 12 12 4)
    ∧ cbRetryLimit b = field 12 16 3 ∧ cbTlo b = b[13].toInt

/-- A write of word 14 sets the filter time, the polarity and the ack timeout (R116, R130, R131) and
starts a running ack timer again with the new value. A running stability timer that has reached the
new filter time qualifies the change at once, with the polarity then standing; one that had already
reached the old filter time qualifies under the old polarity before the write (log 33). Nothing else
changes. The filter time counts units of 64 µs, 3072 periods of LINKCLK, and the ack timeout units of
1 ms, 48000 periods (log 3).
The model's own choices it rests on: logs 3, 8, 10, 33. -/
def Obligations.FilterPolarityTimeoutWritten : Prop :=
  ∀ (s : State) (r : Regions) (k : StationId) (w : Word) (i : Instr), PortTakes s r →
    (i = .breakFilterTimeWrite k w ∨ i = .breakPolarityWrite k w ∨ i = .ackTimeoutWrite k w) →
    let before := fieldOf s.shadows.stations[k][14] 0 4 * 3072
    let filter := fieldOf w 0 4 * 3072
    let wrote (u : State) : State := { u with
      shadows := { u.shadows with
        stations := u.shadows.stations.set k (u.shadows.stations[k].set 14 w) }
      links := u.links.set k { u.links[k] with
        ackTimer := u.links[k].ackTimer.map fun _ =>
          ⟨u.now, max 1 (fieldOf w 8 8) * 48000⟩ } }
    let t : WriteTxn := ⟨pageWordAddr s (0x200 + 0x40 * k.val + 56), ⟨w, 0xF#4⟩, []⟩
    (∀ c, s.breaks[k].timer = some c → c + before ≤ s.now →
      exec i s = .next (report s ((wrote (s.breakQualifies k)).forwardsPage t)))
    ∧ (∀ c, s.breaks[k].timer = some c → s.now < c + before → c + filter ≤ s.now →
      exec i s = .next (report s (((wrote s).breakQualifies k).forwardsPage t)))
    ∧ ((∀ c, s.breaks[k].timer = some c → s.now < c + before ∧ s.now < c + filter) →
      exec i s = .next { wrote s with
        proc := ⟨some ⟨.write t, .forward (byteAddr t.addr)⟩, none⟩ })

/-- R167: a taken acknowledge clears the pending bits that are 1 in both words, empties the error log
when it clears bit 18, leaves the owed sets alone, and marks the summary when a bit is cleared. -/
def Obligations.AcknowledgeClearsPending : Prop :=
  ∀ (s : State) (r : Regions) (v : Word), PortTakes s r →
    ∃ t, exec (.acknowledgeWrite v) s = .next t
      ∧ t.writer.pending = s.writer.pending &&& ~~~v
      ∧ t.writer.owed = s.writer.owed ∧ t.writer.write = s.writer.write
      ∧ (t.log = if v.getLsbD 18 && s.writer.pending.getLsbD 18 then none else s.log)
      ∧ t.shadows = { s.shadows with job := s.shadows.job.set 2 v }
      ∧ (v &&& s.writer.pending ≠ 0#32 → t.writer.marks.get .summary = true)
      ∧ t.proc.answer = none
      ∧ t = { s with writer := t.writer, log := t.log, shadows := t.shadows, proc := t.proc }

/-- R168: the enable mask is zero after power-on reset and after bus reset, a taken write of it takes
effect at once, and IRQ_N is asserted exactly while a pending bit is set whose enable bit is set. -/
def Obligations.EnableMaskDrivesInterrupt : Prop :=
  (∀ s : State, s.irqAsserted = true ↔
      ∃ b : Nat, s.writer.pending.getLsbD b = true ∧ s.shadows.job[1].getLsbD b = true)
  ∧ (∀ s : State, (∃ t, exec .powerOnReset s = .next t ∧ t.shadows.job[1] = 0#32)
    ∧ (s.porst = false → s.busrst = false → ∃ t, exec .busReset s = .next t ∧ t.shadows.job[1] = 0#32))
  ∧ ∀ (s : State) (r : Regions) (m : Word), PortTakes s r →
    ∃ t, exec (.interruptEnableWrite m) s = .next t
      ∧ t.shadows = { s.shadows with job := s.shadows.job.set 1 m }
      ∧ t.writer.pending = s.writer.pending
      ∧ (t.irqAsserted = true ↔
          ∃ b : Nat, s.writer.pending.getLsbD b = true ∧ m.getLsbD b = true)
      ∧ (m ≠ s.shadows.job[1] → t.writer.marks.get .summary = true)
      ∧ t = { s with writer := t.writer, shadows := t.shadows, proc := t.proc }

/-! ### The journal and the commit -/

/-- A journal write into the frontier's slot of an open job, of whole words, stores them in the holders
and sets their mask bits; while the record is not full it is answered DONE and nothing else happens
(R31).
The refusals of a journal write before anything is stored: NO_JOB when the job is not open, then
PARTIAL for a word that is not whole (R30), then REWRITE or GAP for a slot other than the frontier's,
as the distance d from the slot's latest sequence to the frontier is within min(counter, N) or not
(R32). -/
def Obligations.JournalWriteStoredOrRefused : Prop :=
  (∀ (s : State) (r : Regions) (i : Instr) (t : WriteTxn) (n : Fin 8), WritesJournal s r i t n →
      StoresWhole s t → ¬FillsRecord s t →
      ∃ u, exec i s = .next u ∧ HoldersAfter s t u.job.holders
        ∧ (∀ j : Fin 8, u.job.mask.getLsbD j.val = true ↔
            s.job.mask.getLsbD j.val = true ∨ storesTo t j)
        ∧ u.job = { s.job with holders := u.job.holders, mask := u.job.mask }
        ∧ u.proc = ⟨none, some (.done [])⟩
        ∧ u = { s.touched n with job := u.job, proc := u.proc, writer := u.writer }
        ∧ u.writer.owed = s.writer.owed ∧ u.writer.pending = s.writer.pending)
  ∧ ∀ (s : State) (r : Regions) (i : Instr) (t : WriteTxn) (n : Fin 8), WritesJournal s r i t n →
    let slot := (byteAddr t.addr - s.job.base).toNat / 32
    (s.job.state = .closed → RefusedFrom i s (s.touched n) (.write t) .noJob)
    ∧ (s.job.state = .opened → (∃ w ∈ txnWords t, w.enables ≠ 0xF#4) →
        RefusedFrom i s (s.touched n) (.write t) .partialWord)
    ∧ (s.job.state = .opened → (∀ w ∈ txnWords t, w.enables = 0xF#4) →
      slot ≠ s.job.frontier.toNat % s.job.slots → slot < s.job.slots →
      ∀ d, 1 ≤ d → d ≤ s.job.slots → (slot + d) % s.job.slots = s.job.frontier.toNat % s.job.slots →
        (d ≤ s.job.counter.toNat → RefusedFrom i s (s.touched n) (.write t) .rewrite)
        ∧ (s.job.counter.toNat < d → RefusedFrom i s (s.touched n) (.write t) .gap))

/-- A write that fills the record is a commit attempt (R34): the record checks in the order BAD_CHECK,
BAD_SEQ, BAD_FORMAT, a failure emptying the assembler, which marks the job record (R29, R35); then the capacity checks, RETRY with the
record kept (R36); then apply: a station at frontier − N under YIELD becomes LOST, a LIVE station with
a full ring and the lag policy DETACH becomes DETACHED, and the journal write is requested with the
stations then LIVE as the fan-out set (R37 to R39). A record is well-formed when its kind is 0 to 6, its
two flags are clear, a LINE's a is at most 359999, and a LINE's or arc's feed is not 0 (R6).
The model's own choices it rests on: log 20. -/
def Obligations.FullRecordChecked : Prop :=
  (∀ (s : State) (r : Regions) (i : Instr) (t : WriteTxn) (n : Fin 8) (m : Record),
    WritesJournal s r i t n → StoresWhole s t → FillsRecord s t → HoldersAfter s t m →
    let emptied : State := { s.touched n with job := { s.job with mask := 0#8, holders := zeroRecord } }
    let full : Prop := (recSync m = true ∧ 4 ≤ s.gate.entries.length)
      ∨ (s.job.policy = .keep ∧ ∃ k, StandsAtOverwrite s k)
      ∨ ∃ k, LiveAndFull s k ∧ cbLagDetach s.shadows.stations[k] = false
    (checkCorrect m = false → RefusedFrom i s emptied (.write t) .badCheck)
    ∧ (checkCorrect m = true → recSeq m ≠ s.job.frontier →
        RefusedFrom i s emptied (.write t) .badSeq)
    ∧ (checkCorrect m = true → recSeq m = s.job.frontier → recWellFormed m = false →
        RefusedFrom i s emptied (.write t) .badFormat)
    ∧ (¬(checkCorrect m = true ∧ recSeq m = s.job.frontier ∧ recWellFormed m = true) →
        ∀ u, exec i s = .next u → u.writer.marks.get .job = true)
    ∧ (checkCorrect m = true → recSeq m = s.job.frontier → recWellFormed m = true → full →
        ∃ u, exec i s = .next u ∧ u.proc = ⟨none, some .retry⟩
          ∧ u = { s.touched n with
              job := { s.job with mask := 0xFF#8, holders := m }, proc := u.proc, writer := u.writer })
    ∧ (checkCorrect m = true → recSeq m = s.job.frontier → recWellFormed m = true → ¬full →
        ∃ u, exec i s = .next u
          ∧ u.proc = ⟨some ⟨.write t, .journalWrite
              (stationOrder.filter fun k => u.stations[k].feed == .live)⟩, none⟩
          ∧ u.job = { s.job with mask := 0xFF#8, holders := m, inFlight := true }
          ∧ (∀ k : StationId,
            (StandsAtOverwrite s k → u.stations[k] = { s.stations[k] with feed := .lost .overwritten }
              ∧ u.writer.owed.get (.station k) = s.writer.owed.get (.station k) ||| eventBit k)
            ∧ (LiveAndFull s k → u.stations[k] = { s.stations[k] with feed := .detached }
              ∧ u.writer.owed.get (.station k) = s.writer.owed.get (.station k) ||| eventBit k)
            ∧ (¬StandsAtOverwrite s k → ¬LiveAndFull s k → u.stations[k] = s.stations[k]
              ∧ u.writer.owed.get (.station k) = s.writer.owed.get (.station k)))
          ∧ (GateHoldsMembers s → GateHoldsMembers u)
          ∧ u = { s.touched n with job := u.job, proc := u.proc, stations := u.stations,
                                   gate := u.gate, replay := u.replay, writer := u.writer }))
  ∧ ∀ m : Record,
    let kind := fieldOf m[0] 16 4
    recWellFormed m = true ↔ kind ≤ 6 ∧ m[0].getLsbD 25 = false ∧ m[0].getLsbD 26 = false
      ∧ (kind = 0 → m[4].toNat ≤ 359999) ∧ (kind ≤ 2 → fieldOf m[6] 0 16 ≠ 0)

/-- The journal write's answer (R39). FAULT is logged with origin JOURNAL (R169) and answered ERROR
MEM_FAULT, the assembler is emptied, the frontier stays, and a CATCHUP station level with it becomes
LIVE and is owed its event bit (R72, R86). OK begins the posts: with none left the commit ends (R41,
R42); a station no longer LIVE is passed over, and for a LIVE one the copy is made and its ring write
requested at the slot of post (R40). A travel fault takes the station's drive to FAULT with code TRAVEL
from RUNNING, with a HALT of reason 20, and from HELD, with no HALT, through the rewind (R55 to R57), its
feed to DETACHED with post as it is, and the station out of the gate (R91); it owes the event bit (R72),
and the commit goes on with the stations after it.
The model's own choices it rests on: log 29. -/
def Obligations.JournalWriteAnswered : Prop :=
  ∀ (s : State) (p : ProcTxn) (fanOut : List StationId) (m : MemTxn), s.porst = false →
    s.proc.current = some ⟨p, .journalWrite fanOut⟩ → s.port.inFlight = some ⟨.transit, m⟩ →
    let again (rest : List StationId) : State :=
      { s with proc := ⟨some ⟨p, .journalWrite rest⟩, s.proc.answer⟩ }
    let joins (k : StationId) : Prop :=
      s.stations[k].feed = .catchup ∧ s.stations[k].post = s.job.frontier
    (∃ t, AnswerGives .journalWriteAnswer .fault s t
      ∧ t.proc = ⟨none, some (.error .memFault)⟩
      ∧ t.job = { s.job with mask := 0#8, holders := zeroRecord, inFlight := false }
      ∧ t.log = loggedWith s.log ⟨.memFault, .journal, true,
          s.job.base + BitVec.ofNat 32 (32 * (s.job.frontier.toNat % s.job.slots)),
          s.job.holders[0], none, 0#8⟩
      ∧ (∀ k : StationId,
        (joins k → t.stations[k] = { s.stations[k] with feed := .live }
          ∧ t.writer.owed.get (.station k) = s.writer.owed.get (.station k) ||| eventBit k)
        ∧ (¬joins k → t.stations[k] = s.stations[k]
          ∧ t.writer.owed.get (.station k) = s.writer.owed.get (.station k)))
      ∧ t.writer.owed.errorLog = (s.writer.owed.logged s.log).errorLog
      ∧ t.writer.owed.job = s.writer.owed.job ∧ t.writer.owed.summary = s.writer.owed.summary
      ∧ t.writer.marks.get .errorLog = true
      ∧ t = { s.freed with proc := t.proc, job := t.job, log := t.log, stations := t.stations,
                           writer := t.writer })
    ∧ (fanOut = [] → ∃ t, AnswerGives .journalWriteAnswer .ok s t ∧ CommitEnds s.freed t)
    ∧ ∀ k rest, fanOut = k :: rest →
      let st := s.stations[k]
      (st.feed ≠ .live → ∀ late,
        exec (.journalWriteAnswer (.current late .ok)) s
          = exec (.journalWriteAnswer (.current late .ok)) (again rest))
      ∧ (∀ copy, st.feed = .live → transform s.shadows.stations[k] s.job.holders = some copy →
        AnswerGives .journalWriteAnswer .ok s { s.freed with
          proc := ⟨some ⟨p, .postWrite k (st.ringBase
              + BitVec.ofNat 32 (32 * (st.post.toNat % st.capacity)))
              copy rest⟩, none⟩ })
      ∧ (st.feed = .live → transform s.shadows.stations[k] s.job.holders = none →
        let entered : Prop := st.drive = .running ∨ ∃ h, st.drive = .held h
        let gone (d : Drive) (q : Seq) : Station := { st with feed := .detached, drive := d, send := q }
        let moved (f : Station) (l : Link) : State := { s.freed with
          stations := s.stations.set k f
          links := s.links.set k (l.drained f)
          gate := s.gate.told k f
          writer := { s.writer with owed := s.writer.owed.plus (.station k) (eventBit k) } }
        let goesOn (v : State) : Prop :=
          AnswerGives .journalWriteAnswer .ok s (report s (commitNext p rest v))
            ∧ (rest = [] → CommitEnds v (commitNext p rest v))
        (st.drive = .running → goesOn (moved (gone (.fault .travel) st.done)
            (s.links[k].rewind.placeHalt (some 20#8))))
        ∧ (∀ h, st.drive = .held h → goesOn (moved (gone (.fault .travel) st.done)
            (s.links[k].rewind.placeHalt none)))
        ∧ (¬entered → goesOn (moved (gone st.drive st.send) s.links[k])))

/-- A ring write's answer (R40). OK advances post by one and counts a clamped copy while the station is
still LIVE. FAULT is logged with origin POST (R169) and leaves post; the drive enters FAULT with code
MEMORY, from RUNNING with a HALT of reason 21 (R55 to R57), and a LIVE or CATCHUP feed becomes DETACHED,
out of the gate, its turn overtaken (R79, R91); either owes the event bit (R72), and a station that is
OFF meanwhile is not moved (log 17). Either way the posts go on with the stations that remain, and with
none the commit ends (R41, R42): a station no longer LIVE is passed over, a copy has its ring write
requested, and a travel fault moves its station and the posts go on (R40).
The model's own choices it rests on: logs 17, 29. -/
def Obligations.PostWriteAnswered : Prop :=
  (∀ (s : State) (p : ProcTxn) (k : StationId) (addr : Word) (copy : Record) (rest : List StationId)
    (m : MemTxn), s.porst = false → s.proc.current = some ⟨p, .postWrite k addr copy rest⟩ →
    s.port.inFlight = some ⟨.transit, m⟩ →
    let st := s.stations[k]
    let goesOn (ans : WriteAnswer) (v : State) : Prop :=
      AnswerGives .postWriteAnswer ans s (report s (commitNext p rest v))
        ∧ (rest = [] → CommitEnds v (commitNext p rest v))
    let posted : Station := { st with
      post := st.post + 1#16
      counters := { st.counters with
        clamps := if recClamped copy = true ∨ recFeedClamp copy = true then
          satInc st.counters.clamps else st.counters.clamps } }
    let fed : Prop := st.feed = .live ∨ st.feed = .catchup
    let entered : Prop := st.drive = .running ∨ ∃ h, st.drive = .held h
    let writer : Writer := { s.writer with
      marks := s.writer.marks.set .errorLog true, owed := s.writer.owed.logged s.log }
    let logged : State := { s.freed with
      log := loggedWith s.log ⟨.memFault, .post, true, addr, copy[0], some k, 0#8⟩, writer := writer }
    let out (d : Drive) (q : Seq) : Station :=
      { st with feed := if fed then .detached else st.feed, drive := d, send := q }
    let moved (f : Station) (l : Link) : State := { logged with
      stations := s.stations.set k f
      links := s.links.set k (l.drained f)
      gate := s.gate.told k f
      replay := if st.feed = .catchup then { s.replay with turn := s.overtakenTurn k } else s.replay
      writer := { writer with owed := writer.owed.plus (.station k) (eventBit k) } }
    (st.feed = .live → goesOn .ok { s.freed with
        stations := s.stations.set k posted, links := s.links.set k (s.links[k].drained posted) })
    ∧ (st.feed ≠ .live → goesOn .ok s.freed)
    ∧ (st.drive = .running →
        goesOn .fault (moved (out (.fault .memory) st.done) (s.links[k].rewind.placeHalt (some 21#8))))
    ∧ (∀ h, st.drive = .held h →
        goesOn .fault (moved (out (.fault .memory) st.done) (s.links[k].rewind.placeHalt none)))
    ∧ (¬entered → fed → goesOn .fault (moved (out st.drive st.send) s.links[k]))
    ∧ (¬entered → ¬fed →
        goesOn .fault { logged with links := s.links.set k (s.links[k].drained st) }))
  ∧ ∀ (v : State) (p : ProcTxn) (k : StationId) (rest : List StationId),
    let st := v.stations[k]
    let entered : Prop := st.drive = .running ∨ ∃ h, st.drive = .held h
    let goesOn (d : Drive) (q : Seq) (l : Link) : Prop :=
      let f : Station := { st with feed := .detached, drive := d, send := q }
      commitNext p (k :: rest) v = commitNext p rest { v with
        stations := v.stations.set k f
        links := v.links.set k (l.drained f)
        gate := v.gate.told k f
        writer := { v.writer with owed := v.writer.owed.plus (.station k) (eventBit k) } }
    (st.feed ≠ .live → commitNext p (k :: rest) v = commitNext p rest v)
    ∧ (∀ copy, st.feed = .live → transform v.shadows.stations[k] v.job.holders = some copy →
      commitNext p (k :: rest) v = { v with
        proc := ⟨some ⟨p, .postWrite k (st.ringBase
            + BitVec.ofNat 32 (32 * (st.post.toNat % st.capacity))) copy rest⟩, none⟩ })
    ∧ (st.feed = .live → transform v.shadows.stations[k] v.job.holders = none →
      (st.drive = .running →
        goesOn (.fault .travel) st.done (v.links[k].rewind.placeHalt (some 20#8)))
      ∧ (∀ h, st.drive = .held h →
        goesOn (.fault .travel) st.done (v.links[k].rewind.placeHalt none))
      ∧ (¬entered → goesOn st.drive st.send v.links[k]))

/-! ### Job commands -/

/-- OPEN, CLOSE and the undefined codes, as a taken write of the job command word starts them (R23, R24,
R26, R161): OPEN completes BAD_STATE unless the job is NONE or CLOSED and every station is OFF, and
otherwise keeps the slot busy for its descriptor read; CLOSE closes an open job and empties the
assembler, and completes OK or BAD_STATE. -/
def Obligations.JobCommandsTaken : Prop :=
  ∀ (s : State) (r : Regions) (pre : List Word) (spare : BitVec 7) (index : BitVec 5) (start : Seq)
    (code : BitVec 4) (arg : BitVec 28), PortTakes s r → pre.length ≤ 7 → s.job.opening = none →
    let txn (w : Word) := writeUpTo s (jobBlockOffset 15) pre w
    let op := openWord spare index start
    let u := s.atJobCommand pre op
    let c := s.atJobCommand pre (commandWord 2#4 arg)
    (((s.job.state = .opened ∨ ∃ k : StationId, s.stations[k].feed ≠ .off) →
        JobCommandEnds (.openJob pre spare index start) s u (txn op) 1#4 .badState)
      ∧ (¬(s.job.state = .opened ∨ ∃ k : StationId, s.stations[k].feed ≠ .off) →
        EndsIn (.openJob pre spare index start) s
          { u with job := { u.job with opening := some (index, start) }
                   proc := ⟨some ⟨.write (txn op), .forward (byteAddr (txn op).addr)⟩, none⟩ }
          s.writer.owed [.job]))
    ∧ ((s.job.state = .opened → JobCommandEnds (.closeJob pre arg) s
          { c with job := { c.job with mask := 0#8, holders := zeroRecord, state := .closed } }
          (txn (commandWord 2#4 arg)) 2#4 .ok)
      ∧ (s.job.state = .closed →
        JobCommandEnds (.closeJob pre arg) s c (txn (commandWord 2#4 arg)) 2#4 .ok)
      ∧ (s.job.state = .noJob →
        JobCommandEnds (.closeJob pre arg) s c (txn (commandWord 2#4 arg)) 2#4 .badState))
    ∧ (3#4 ≤ code → JobCommandEnds (.jobBadCmd pre code arg) s
        (s.atJobCommand pre (commandWord code arg)) (txn (commandWord code arg)) code .badCmd)

/-- OPEN completes at its descriptor read's answer, the first that holds deciding (R25): BAD_ARG with
MEM_FAULT logged for FAULT, BAD_STATE when a station is not OFF, BAD_ARG for a descriptor that fails a
test, and otherwise OK with the job OPEN over the journal, its policy captured (R27, R28).
The model's own choices it rests on: logs 23, 29. -/
def Obligations.OpenCompletes : Prop :=
  ∀ (s : State) (m : MemTxn) (index : BitVec 5) (start : Seq) (v : Vector Word 4), s.porst = false →
    s.port.inFlight = some ⟨.commandJob, m⟩ → s.job.opening = some (index, start) →
    let ends (ans : ReadAnswer 4) (b : State) (result : Result) : Prop :=
      AnswerEndsIn .openComplete ans s (b.jobDone 1#4 result)
        ((s.writer.owed.plus .job jobDoneBit)) [.job]
    AnswerEndsIn .openComplete .fault s
      (State.jobDone { s.freed with
        log := loggedWith s.log
          ⟨.memFault, .command, false, descAddr s index.toNat, 0#32, none, 0#8⟩ } 1#4 .badArg)
      ((s.writer.owed.logged s.log).plus .job jobDoneBit) [.job, .errorLog]
    ∧ ((∃ k : StationId, s.stations[k].feed ≠ .off) → ends (.ok v) s.freed .badState)
    ∧ ((∀ k : StationId, s.stations[k].feed = .off) →
      (¬OpensJournal (pageBase s) v → ends (.ok v) s.freed .badArg)
      ∧ (OpensJournal (pageBase s) v → ends (.ok v)
        { s.freed with job := { s.job with
            state := .opened, journal := some index, base := v[1], slots := windowBytes v / 32
            start := start, frontier := start, counter := 0#16, mask := 0#8, holders := zeroRecord
            policy := if s.shadows.job[0] = 1#32 then .yield else .keep } } .ok))

/-! ### Station commands -/

/-- ATTACH's first checks, and the undefined codes (R60, R61): BAD_STATE unless the feed is OFF, NO_JOB
when there is no job, and otherwise the slot is busy with the ring index and S captured. -/
def Obligations.AttachTaken : Prop :=
  ∀ (s : State) (r : Regions) (k : StationId) (pre : List Word) (spare : BitVec 12) (start : Seq)
    (code : BitVec 4) (arg : BitVec 28), PortTakes s r → StationWriteTaken s k pre →
    let txn (w : Word) := writeUpTo s (stationBlockOffset k 15) pre w
    let w := attachWord spare start
    let u := s.atStationCommand k pre w
    (s.stations[k].feed ≠ .off →
        StationCommandEnds (.attach k pre spare start) s u k (txn w) 1#4 .badState 0#32)
    ∧ (s.stations[k].feed = .off → s.job.state = .noJob →
        StationCommandEnds (.attach k pre spare start) s u k (txn w) 1#4 .noJob 0#32)
    ∧ (s.stations[k].feed = .off → s.job.state ≠ .noJob →
        EndsIn (.attach k pre spare start) s
          { u with
            stations := u.stations.set k { u.stations[k] with
              progress := .attaching (u.shadows.stations[k][0].extractLsb' 0 5) start }
            proc := ⟨some ⟨.write (txn w), .forward (byteAddr (txn w).addr)⟩, none⟩ }
          u.writer.owed [.station k])
    ∧ (8#4 ≤ code → StationCommandEnds (.stationBadCmd k pre code arg) s
        (s.atStationCommand k pre (commandWord code arg)) k (txn (commandWord code arg)) code
        .badCmd 0#32)

/-- ATTACH completes at its descriptor read's answer (R62, R63): NO_RING with MEM_FAULT logged for
FAULT, NO_RING for a descriptor that fails a test, BAD_ARG for S outside the retained records, and
otherwise OK, the station LIVE at the frontier with no commit in flight and CATCHUP behind it, its
drive HELD with reason ATTACH and its pointers at S. The queued frames are discarded as stale (R107).
The model's own choices it rests on: logs 23, 29, 32. -/
def Obligations.AttachCompletes : Prop :=
  ∀ (s : State) (k : StationId) (m : MemTxn) (index : BitVec 5) (start : Seq) (v : Vector Word 4),
    s.porst = false → s.port.inFlight = some ⟨.commandStation k, m⟩ →
    s.stations[k].progress = .attaching index start →
    let st : Station := { s.stations[k] with
      counters := staleAdded s.stations[k].counters s.links[k].queue.length }
    let l : Link := { s.links[k] with queue := [] }
    let emptied : State := { s.freed with stations := s.stations.set k st, links := s.links.set k l }
    let attached : Station := { st with
      feed := if start = s.job.frontier ∧ s.job.inFlight = false then .live else .catchup
      drive := .held .attach, ring := some index, ringBase := v[1], capacity := windowBytes v / 32
      post := start, send := start, done := start }
    let ends (b : State) (result : Result) : Prop :=
      AnswerEndsIn .attachComplete (.ok v) s (b.stationDone k 1#4 result)
        (s.writer.owed.plus (.station k) (commandDoneBit k)) [.station k]
    AnswerEndsIn .attachComplete .fault s
      (State.stationDone { emptied with
        log := loggedWith s.log
          ⟨.memFault, .command, false, descAddr s index.toNat, 0#32, some k, 0#8⟩ } k 1#4 .noRing)
      ((s.writer.owed.logged s.log).plus (.station k) (commandDoneBit k)) [.station k, .errorLog]
    ∧ (¬AttachesRing (pageBase s) k v → ends emptied .noRing)
    ∧ (AttachesRing (pageBase s) k v → ¬StartsAt s.job start → ends emptied .badArg)
    ∧ (AttachesRing (pageBase s) k v → StartsAt s.job start → ends
        { emptied with
          stations := s.stations.set k attached
          links := s.links.set k (l.rewind.placeHalt none)
          gate := s.gate.told k attached } .ok)

/-- DETACH (R64) makes a LIVE or CATCHUP feed DETACHED with post as it is, and REATTACH (R65) a DETACHED
feed LIVE when post equals the frontier and no commit is in flight, and CATCHUP otherwise; in any other
feed state they complete BAD_STATE. -/
def Obligations.DetachAndReattach : Prop :=
  ∀ (s : State) (r : Regions) (k : StationId) (pre : List Word) (arg : BitVec 28), PortTakes s r →
    StationWriteTaken s k pre →
    let txn (w : Word) := writeUpTo s (stationBlockOffset k 15) pre w
    let w := commandWord 2#4 arg
    let u := s.atStationCommand k pre w
    let out : Station := { u.stations[k] with feed := .detached }
    let left : State := { u with stations := u.stations.set k out, gate := u.gate.told k out }
    let y := commandWord 3#4 arg
    let v := s.atStationCommand k pre y
    let back : Station := { v.stations[k] with
      feed := if v.stations[k].post = v.job.frontier ∧ v.job.inFlight = false then .live else .catchup }
    (s.stations[k].feed = .live →
        StationCommandEnds (.detach k pre arg) s left k (txn w) 2#4 .ok (eventBit k))
    ∧ (s.stations[k].feed = .catchup → StationCommandEnds (.detach k pre arg) s
        { left with replay := { u.replay with turn := u.overtakenTurn k } } k (txn w) 2#4 .ok
        (eventBit k))
    ∧ (s.stations[k].feed ≠ .live → s.stations[k].feed ≠ .catchup →
        StationCommandEnds (.detach k pre arg) s u k (txn w) 2#4 .badState 0#32)
    ∧ (s.stations[k].feed = .detached → StationCommandEnds (.reattach k pre arg) s
        { v with stations := v.stations.set k back, gate := v.gate.told k back } k (txn y) 3#4 .ok 0#32)
    ∧ (s.stations[k].feed ≠ .detached →
        StationCommandEnds (.reattach k pre arg) s v k (txn y) 3#4 .badState 0#32)

/-- HOLD (R66) holds a RUNNING drive with reason OPERATOR: the rewind, send back to done, and a HALT
with reason 2 queued unless an unbegun GO is withdrawn instead (R56, R57); a HELD drive stays as it
is. CLEAR (R68) takes FAULT to HELD with reason CLEARED and owes the event bit (R72). In the other
drive states they complete BAD_STATE. The rewind of a link and the control frame of an entry are as R56
and R57 state them. -/
def Obligations.HoldAndClear : Prop :=
  (∀ (l : Link) (r : Byte),
    l.rewind = { l with
      staging := .empty, outstanding := none, ackTimer := none, retry := 0, fullWait := false
      drain := l.drain.map fun d => { d with marked := true }
      tx := l.tx.map Tx.void }
    ∧ l.placeHalt (some r) = { l with slot := if l.slot = .go then .empty else .halt r }
    ∧ l.placeHalt none = { l with slot := if l.slot = .go then .empty else l.slot }
    ∧ ∀ t : Tx, t.void.bytes = t.bytes ∧ t.void.start = t.start
      ∧ (∀ q v, t.kind = .seg q v → t.void.kind = .seg q true)
      ∧ (∀ q v, t.kind = .resend q v → t.void.kind = .resend q true)
      ∧ (t.kind = .halt ∨ t.kind = .go → t.void = t))
  ∧ ∀ (s : State) (r : Regions) (k : StationId) (pre : List Word) (arg : BitVec 28), PortTakes s r →
    StationWriteTaken s k pre →
    let txn (w : Word) := writeUpTo s (stationBlockOffset k 15) pre w
    let w := commandWord 4#4 arg
    let u := s.atStationCommand k pre w
    let l := u.links[k]
    let rested : Link := { l with
      staging := .empty, outstanding := none, ackTimer := none, retry := 0, fullWait := false
      drain := l.drain.map fun d => { d with marked := true }
      tx := l.tx.map Tx.void
      slot := if l.slot = .go then .empty else .halt 2#8 }
    let y := commandWord 6#4 arg
    let v := s.atStationCommand k pre y
    (u.stations[k].drive = .running → StationCommandEnds (.hold k pre arg) s
        (u.moved k { u.stations[k] with drive := .held .operator, send := u.stations[k].done } rested)
        k (txn w) 4#4 .ok 0#32)
    ∧ (∀ h, u.stations[k].drive = .held h →
        StationCommandEnds (.hold k pre arg) s u k (txn w) 4#4 .ok 0#32)
    ∧ (u.stations[k].drive = .stopped ∨ (∃ c, u.stations[k].drive = .fault c) →
        StationCommandEnds (.hold k pre arg) s u k (txn w) 4#4 .badState 0#32)
    ∧ (∀ c, v.stations[k].drive = .fault c → StationCommandEnds (.clear k pre arg) s
        (v.moved k { v.stations[k] with drive := .held .cleared, send := v.stations[k].done }
          (v.links[k].rewind.placeHalt none)) k (txn y) 6#4 .ok (eventBit k))
    ∧ ((∀ c, v.stations[k].drive ≠ .fault c) →
        StationCommandEnds (.clear k pre arg) s v k (txn y) 6#4 .badState 0#32)

/-- RESUME's checks in their order (R67): BAD_STATE outside HELD, STOP_ACTIVE while the stop line is
asserted, BREAK_ACTIVE while the break line stands at its active level (R133), HALT_PENDING while a
HALT is queued, and otherwise the drive RUNNING with a GO queued (R58). -/
def Obligations.ResumeChecks : Prop :=
  ∀ (s : State) (r : Regions) (k : StationId) (pre : List Word) (arg : BitVec 28), PortTakes s r →
    StationWriteTaken s k pre →
    let w := commandWord 5#4 arg
    let u := s.atStationCommand k pre w
    let ends (v : State) (result : Result) : Prop := StationCommandEnds (.resume k pre arg) s v k
      (writeUpTo s (stationBlockOffset k 15) pre w) 5#4 result 0#32
    let isHeld : Prop := ∃ h, u.stations[k].drive = .held h
    let stopped : Prop := u.stop.qualified = false
    let active : Prop :=
      (cbPolarity u.shadows.stations[k] = .rising ∧ u.breaks[k].qualified = true)
        ∨ (cbPolarity u.shadows.stations[k] = .falling ∧ u.breaks[k].qualified = false)
    let queued : Prop := ∃ h, u.links[k].slot = .halt h
    (¬isHeld → ends u .badState)
    ∧ (isHeld → stopped → ends u .stopActive)
    ∧ (isHeld → ¬stopped → active → ends u .breakActive)
    ∧ (isHeld → ¬stopped → ¬active → queued → ends u .haltPending)
    ∧ (isHeld → ¬stopped → ¬active → ¬queued → ends
        { u with stations := u.stations.set k { u.stations[k] with drive := .running }
                 links := u.links.set k { u.links[k] with slot := .go } } .ok)

/-- RELEASE (R69, R70): BAD_STATE when the feed is OFF; otherwise a RUNNING drive is held with reason
OPERATOR, and the station is released at once when the link is quiet, or later by RELEASE_COMPLETE
when it has become so, the slot busy meanwhile.
The model's own choices it rests on: log 18. -/
def Obligations.ReleaseCompletes : Prop :=
  ∀ (s : State) (r : Regions) (k : StationId) (pre : List Word) (arg : BitVec 28),
    (PortTakes s r → StationWriteTaken s k pre →
      let w := commandWord 7#4 arg
      let txn := writeUpTo s (stationBlockOffset k 15) pre w
      let u := s.atStationCommand k pre w
      let t := u.heldForRelease k
      let proc : ProcPort := ⟨some ⟨.write txn, .forward (byteAddr txn.addr)⟩, none⟩
      (s.stations[k].feed = .off →
        StationCommandEnds (.release k pre arg) s u k txn 7#4 .badState 0#32)
      ∧ (s.stations[k].feed ≠ .off → LinkQuiet t.links[k] → EndsIn (.release k pre arg) s
          { t.released k with proc := proc }
          (u.writer.owed.plus (.station k) (commandDoneBit k)) [.station k])
      ∧ (s.stations[k].feed ≠ .off → ¬LinkQuiet t.links[k] → EndsIn (.release k pre arg) s
          { t with stations := t.stations.set k { t.stations[k] with progress := .releasing }
                   proc := proc } u.writer.owed [.station k]))
    ∧ (s.porst = false → s.stations[k].progress = .releasing → LinkQuiet s.links[k] →
        EndsIn (.releaseComplete k) s (s.released k)
          (s.writer.owed.plus (.station k) (commandDoneBit k)) [.station k])

/-! ### The replay engine -/

/-- R77: with no turn in flight, the first eligible station after the round-robin position is granted
the turn, for its post and with its ring slot's address latched (R75, R78), and the position becomes
that station; with no station eligible nothing is granted. -/
def Obligations.ReplayTurnGranted : Prop :=
  ∀ (s : State) (k : StationId), s.porst = false → s.replay.turn = none →
    let isEligible (j : StationId) : Prop := s.stations[j].feed = .catchup
      ∧ seqBefore s.stations[j].post s.job.frontier = true
      ∧ seqDist s.stations[j].done s.stations[j].post < s.stations[j].capacity
    let place (j : StationId) : Nat := (j - (s.replay.position + 1)).val
    (isEligible k → (∀ j, place j < place k → ¬isEligible j) →
      exec .replayTurnGrant s = .next { s with replay := ⟨k, some ⟨k, s.stations[k].post,
        s.stations[k].ringBase
          + BitVec.ofNat 32 (32 * (s.stations[k].post.toNat % s.stations[k].capacity)),
        false, none⟩⟩ })
    ∧ ((∀ j, ¬isEligible j) → exec .replayTurnGrant s = .next s)

/-- A turn's read answered, in the order of R79 to R83: a marked turn ends without effect; FAULT loses
the feed with reason MEMORY and is logged; a record that does not match loses it with reason CHECK; a
travel fault takes the drive to FAULT with code TRAVEL and the feed to DETACHED; and otherwise post
advances and the ring write follows at once in the turn's hold (R177).
The model's own choices it rests on: logs 22, 29. -/
def Obligations.ReplayReadAnswered : Prop :=
  ∀ (s : State) (t : ReplayTurn) (m : MemTxn) (ans : ReadAnswer 8) (rec : Vector Word 8),
    s.porst = false → s.port.inFlight = some ⟨.replay, m⟩ → s.replay.turn = some t → t.copy = none →
    let k := t.station
    let st := s.stations[k]
    let ended : State := { s.freed with replay := { s.replay with turn := none } }
    let lost (r : LossReason) : Station := { st with feed := .lost r }
    let gone : Station := { st with feed := .detached }
    (t.marked = true → AnswerGives .replayReadAnswer ans s ended)
    ∧ (t.marked = false → st.feed = .catchup →
      AnswerEndsIn .replayReadAnswer .fault s
        { ended with
          stations := s.stations.set k (lost .memory)
          gate := s.gate.told k (lost .memory)
          log := loggedWith s.log ⟨.memFault, .replay, false,
            s.job.base + BitVec.ofNat 32 (32 * (t.seq.toNat % s.job.slots)), 0#32, some k, 0#8⟩ }
        ((s.writer.owed.logged s.log).plus (.station k) (eventBit k)) [.errorLog, .station k]
      ∧ (¬(checkCorrect rec = true ∧ recSeq rec = t.seq) → AnswerEndsIn .replayReadAnswer (.ok rec) s
          { ended with stations := s.stations.set k (lost .check), gate := s.gate.told k (lost .check) }
          (s.writer.owed.plus (.station k) (eventBit k)) [.station k])
      ∧ (checkCorrect rec = true → recSeq rec = t.seq →
        (∀ copy, transform s.shadows.stations[k] rec = some copy →
          let up : Station := { st with post := t.seq + 1#16 }
          AnswerEndsIn .replayReadAnswer (.ok rec) s
            { s.writing .replay .replay t.slotAddr copy with
              stations := s.stations.set k up
              links := s.links.set k (s.links[k].drained up)
              replay := { s.replay with turn := some { t with copy := some copy } } }
            s.writer.owed [])
        ∧ (transform s.shadows.stations[k] rec = none →
          (st.drive = .stopped ∨ ∃ c, st.drive = .fault c) →
          AnswerEndsIn .replayReadAnswer (.ok rec) s
            { ended with stations := s.stations.set k gone, gate := s.gate.told k gone
                         links := s.links.set k (s.links[k].drained gone) }
            (s.writer.owed.plus (.station k) (eventBit k)) [.station k])
        ∧ (transform s.shadows.stations[k] rec = none →
          let f : Station := { gone with drive := .fault .travel, send := st.done }
          let faults (halt : Option Byte) : Prop := AnswerEndsIn .replayReadAnswer (.ok rec) s
            { ended with stations := s.stations.set k f, gate := s.gate.told k f
                         links := s.links.set k ((s.links[k].rewind.placeHalt halt).drained f) }
            (s.writer.owed.plus (.station k) (eventBit k)) [.station k]
          (∀ h, st.drive = .held h → faults none) ∧ (st.drive = .running → faults (some 20#8)))))

/-- A turn's ring write answered. OK counts a clamped copy (R83) and makes a CATCHUP station that is level
with the frontier LIVE when no commit is in flight (R85); a station that is OFF meanwhile is not
touched. FAULT is logged with origin REPLAY and loses a CATCHUP or DETACHED feed with reason MEMORY
(R84). The turn ends.
The model's own choices it rests on: log 29. -/
def Obligations.ReplayWriteAnswered : Prop :=
  ∀ (s : State) (t : ReplayTurn) (m : MemTxn) (copy : Record), s.porst = false →
    s.port.inFlight = some ⟨.replay, m⟩ → s.replay.turn = some t → t.copy = some copy →
    let k := t.station
    let st := s.stations[k]
    let ended : State := { s.freed with replay := { s.replay with turn := none } }
    let counted : Station := { st with counters := { st.counters with
      clamps := if recClamped copy = true ∨ recFeedClamp copy = true then satInc st.counters.clamps
        else st.counters.clamps } }
    let joins : Prop := st.feed = .catchup ∧ st.post = s.job.frontier ∧ s.job.inFlight = false
    let lost : Station := { st with feed := .lost .memory }
    let logged : State := { ended with
      log := loggedWith s.log ⟨.memFault, .replay, true, t.slotAddr, copy[0], some k, 0#8⟩ }
    (st.feed = .off → AnswerGives .replayWriteAnswer .ok s ended)
    ∧ (st.feed ≠ .off → joins → AnswerEndsIn .replayWriteAnswer .ok s
        { ended with stations := s.stations.set k { counted with feed := .live } }
        (s.writer.owed.plus (.station k) (eventBit k)) [.station k])
    ∧ (st.feed ≠ .off → ¬joins → AnswerEndsIn .replayWriteAnswer .ok s
        { ended with stations := s.stations.set k counted } s.writer.owed [])
    ∧ (st.feed = .catchup ∨ st.feed = .detached → AnswerEndsIn .replayWriteAnswer .fault s
        { logged with stations := s.stations.set k lost, gate := s.gate.told k lost }
        ((s.writer.owed.logged s.log).plus (.station k) (eventBit k)) [.errorLog, .station k])
    ∧ (st.feed ≠ .catchup → st.feed ≠ .detached → AnswerEndsIn .replayWriteAnswer .fault s
        logged (s.writer.owed.logged s.log) [.errorLog])

/-! ### The memory port and the status writer -/

/-- The arbiter grants, to the first requester in its order whose request is weighed at the grant, the
transaction of Table 10-1 (R174 to R177): TRANSIT its forwarded access, table read, journal write or ring write;
COMMAND its descriptor read; DRAIN its ring read, the drain position following; REPLAY its journal
read, holding the port. A port that is not free grants nothing. An answer that frees the port names the
requests that come after the next grant: those of its own work only, and they alone are late (log 29).
A request stands, while the port does not carry its requester's transaction, for a transaction in
progress, for an OPEN or ATTACH that waits for its read, for a write of the pass or a marked record with
no status write in flight once the pass has ended, for a drain read, and for a turn not yet read
(Table 10-2).
The model's own choices it rests on: log 29. -/
def Obligations.ArbiterGrantsInOrder : Prop :=
  (∀ s : State, s.port.inFlight ≠ none ∨ s.port.hold ≠ none → exec .arbiterGrant s = .next s)
  ∧ (∀ (s t : State) (late : List Requester) (r : Requester),
      t.deferred late s = { t with port := { t.port with late := (t.deferred late s).port.late } }
      ∧ (r ∈ (t.deferred late s).port.late ↔ r ∈ t.port.late
          ∨ (r ∈ late ∧ t.port.inFlight = none ∧ t.port.hold = none
            ∧ standing t r = true ∧ standing s r = false)))
  ∧ (∀ s : State,
    let stands (r : Requester) (made : Prop) : Prop :=
      standing s r = true ↔ (∀ m, s.port.inFlight ≠ some ⟨r, m⟩) ∧ made
    stands .transit (s.proc.current ≠ none)
    ∧ stands .commandJob (s.job.opening ≠ none)
    ∧ stands .status (s.writer.write = none ∧ (s.boot.pass ≠ none
        ∨ (s.taking = true ∧ ∃ r, s.writer.marks.get r = true)))
    ∧ stands .replay (∃ t, s.replay.turn = some t ∧ t.copy = none)
    ∧ ∀ k : StationId, stands (.commandStation k) (∃ d q, s.stations[k].progress = .attaching d q)
      ∧ stands (.drain k) (s.links[k].drain ≠ none))
  ∧ ∀ s : State,
    (∀ a n addr, GrantedNext s .transit → s.proc.current = some ⟨.read a n, .forward addr⟩ →
      exec .arbiterGrant s = .next (s.granting.reading .transit .processor addr (n.val + 1)))
    ∧ (∀ t addr, GrantedNext s .transit → s.proc.current = some ⟨.write t, .forward addr⟩ →
      exec .arbiterGrant s = .next { s with port := { s.port with
        late := []
        inFlight := some ⟨.transit, ⟨.processor, addr, .write (t.first :: t.rest)⟩⟩ } })
    ∧ (∀ p got, GrantedNext s .transit → s.proc.current = some ⟨p, .scan got⟩ →
      exec .arbiterGrant s = .next (s.granting.reading .transit .table
        (pageBase s + BitVec.ofNat 32 (16 * got.length)) 2))
    ∧ (∀ p d w0 w1, GrantedNext s .transit → s.proc.current = some ⟨p, .detail d w0 w1⟩ →
      exec .arbiterGrant s = .next (s.granting.reading .transit .table
        (pageBase s + BitVec.ofNat 32 (16 * d.toNat) + 8#32) 2))
    ∧ (∀ p f, GrantedNext s .transit → s.proc.current = some ⟨p, .journalWrite f⟩ →
      exec .arbiterGrant s = .next (s.granting.writing .transit .journal
        (s.job.base + BitVec.ofNat 32 (32 * (s.job.frontier.toNat % s.job.slots))) s.job.holders))
    ∧ (∀ p k addr copy rest, GrantedNext s .transit →
      s.proc.current = some ⟨p, .postWrite k addr copy rest⟩ →
      exec .arbiterGrant s = .next (s.granting.writing .transit .post addr copy))
    ∧ (∀ d q, GrantedNext s .commandJob → s.job.opening = some (d, q) →
      exec .arbiterGrant s = .next (s.granting.reading .commandJob .command (descAddr s d.toNat) 4))
    ∧ (∀ k d q, GrantedNext s (.commandStation k) → s.stations[k].progress = .attaching d q →
      exec .arbiterGrant s = .next (s.granting.reading (.commandStation k) .command (descAddr s d.toNat) 4))
    ∧ (∀ k d, GrantedNext s (.drain k) → s.links[k].drain = some d →
      exec .arbiterGrant s = .next { s with port :=
        ⟨some ⟨.drain k, ⟨.drain, d.addr, .read 8⟩⟩, none, k, []⟩ })
    ∧ (∀ t, GrantedNext s .replay → s.replay.turn = some t →
      exec .arbiterGrant s = .next { s with port :=
        ⟨some ⟨.replay, ⟨.replay, s.job.base + BitVec.ofNat 32 (32 * (t.seq.toNat % s.job.slots)),
          .read 8⟩⟩, some .replay, s.port.drainPos, []⟩ })

/-- A STATUS grant after the pass begins the write of the summary if it is marked, and otherwise of the
first marked record in the cycle after the last one chosen (R163): its mark is cleared, its owed set
moves into the write, the snapshot of its contents goes to its place in the page, and a 64-byte record
holds the port for its second half (R164). During the pass the writes of R186 go out in their order:
zero over the descriptor table and the rest of the status area, the shadows over the control blocks,
and the snapshots of the status records, bit 18 being owed to the error log record's write when the
log is full, and the pass's bit to the summary's.
A status write's answer after the pass (R164, R165): the first half of a 64-byte record answered OK
is followed at once by the second; a write answered OK to its end sets the pending bits owed to it;
FAULT is logged (R169), marks the record again and returns its owed bits.
The model's own choices it rests on: logs 22, 29. -/
def Obligations.StatusWritesGrantedAndAnswered : Prop :=
  (∀ s : State, GrantedNext s .status →
      let begins (id : RecordId) (owed : Owed) (t : State) : Prop :=
        let upper := (recordUpper s id).map fun u =>
          (pageBase s + BitVec.ofNat 32 (recordOffset id) + 32#32, u)
        t.writer.write = some ⟨some id, owed.get id, upper⟩
        ∧ t.writer.owed = owed.set id 0#32 ∧ t.writer.pending = s.writer.pending
        ∧ t.writer.marks = s.writer.marks.set id false
        ∧ ∃ p, p = s.granting.writing .status .status (pageBase s + BitVec.ofNat 32 (recordOffset id))
              (recordLower s id)
          ∧ t = { p with writer := t.writer
                         port := { p.port with hold := if upper.isSome then some .status else none } }
      let place (i : Fin 8) : Nat := (i - (s.writer.position + 1)).val
      (s.boot.pass = none → s.writer.marks.summary = true → ∃ t, exec .arbiterGrant s = .next t
        ∧ begins .summary s.writer.owed t ∧ t.writer.position = s.writer.position)
      ∧ (∀ i : Fin 8, s.boot.pass = none → s.writer.marks.summary = false →
        s.writer.marks.get (cycleRecord i) = true →
        (∀ j, place j < place i → s.writer.marks.get (cycleRecord j) = false) →
        ∃ t, exec .arbiterGrant s = .next t ∧ begins (cycleRecord i) s.writer.owed t
          ∧ t.writer.position = i)
      ∧ ∀ n, s.boot.pass = some n →
        let owed := s.writer.owed
        let begun (id : RecordId) (o : Owed) : Prop :=
          ∃ t, exec .arbiterGrant s = .next t ∧ begins id o t ∧ t.writer.position = s.writer.position
        let plain (words : Record) : Prop := exec .arbiterGrant s = .next
          { s.granting.writing .status .status (pageBase s + BitVec.ofNat 32 (passOffset n)) words with
            writer := { s.writer with write := some ⟨none, 0#32, none⟩ } }
        let half (block : Block) (h : Fin 2) : Record :=
          Vector.ofFn fun j : Fin 8 => block[8 * h.val + j.val]
        (n < 16 ∨ (45 ≤ n ∧ n < 61) → plain (Vector.replicate 8 0#32))
        ∧ (∀ (k : StationId) (h : Fin 2), n = 16 + 2 * k.val + h.val →
            plain (half s.shadows.stations[k] h))
        ∧ (∀ h : Fin 2, n = 28 + h.val → plain (half s.shadows.job h))
        ∧ (n = 30 → begun .job owed)
        ∧ (∀ k : StationId, n = 32 + 2 * k.val → begun (.station k) owed)
        ∧ (n = 44 → begun .errorLog
            (if s.log = none then owed else owed.plus .errorLog (placeFlag true 18)))
        ∧ (n = 61 → begun .summary (owed.plus .summary passCompleteBit)))
  ∧ ∀ (s : State) (w : StatusWrite) (txn : MemTxn), s.porst = false → s.boot.pass = none →
    s.writer.write = some w → s.port.inFlight = some ⟨.status, txn⟩ →
    (∀ addr r, w.upper = some (addr, r) → AnswerGives .statusWriteAnswer .ok s
      { s.writing .status .status addr r with
        writer := { s.writer with write := some { w with upper := none } } })
    ∧ (w.upper = none → ∃ t, AnswerGives .statusWriteAnswer .ok s t
      ∧ t.writer.pending = s.writer.pending ||| w.owed ∧ t.writer.write = none
      ∧ t.writer.owed = s.writer.owed ∧ t.writer.position = s.writer.position
      ∧ (s.writer.pending ||| w.owed ≠ s.writer.pending → t.writer.marks.get .summary = true)
      ∧ t = { s.freed with writer := t.writer })
    ∧ ∃ t, AnswerGives .statusWriteAnswer .fault s t
      ∧ t.writer.write = none ∧ t.writer.pending = s.writer.pending
      ∧ (∀ id, w.record = some id → t.writer.marks.get id = true)
      ∧ t.writer.owed = (match w.record with
          | some id => s.writer.owed.plus id w.owed
          | none => s.writer.owed).logged s.log
      ∧ t.writer.marks.get .errorLog = true ∧ t.writer.position = s.writer.position
      ∧ t.log = loggedWith s.log ⟨.memFault, .status, true, txn.addr, txnFirstData txn,
          recordStation w.record, 0#8⟩
      ∧ t = { s.freed with log := t.log, writer := t.writer }

/-- A drain read's answer (R112, R113): a marked read is discarded; a record that matches is staged;
another takes the drive to FAULT with code RING_CHECK, and FAULT, which is logged with origin DRAIN,
with code MEMORY, the staging buffer being left spoiled when send still equals the sequence read; and
the condition of R111 is weighed afresh.
The model's own choices it rests on: log 29. -/
def Obligations.DrainReadAnswered : Prop :=
  ∀ (s : State) (k : StationId) (m : MemTxn) (d : DrainRead) (ans : ReadAnswer 8)
    (rec : Vector Word 8), s.porst = false → s.port.inFlight = some ⟨.drain k, m⟩ →
    s.links[k].drain = some d →
    let st := s.stations[k]
    let l : Link := { s.links[k] with drain := none }
    let ended : State := { s.freed with links := s.links.set k l }
    let spoils (st : Station) (l : Link) : Link :=
      if st.send = d.seq then { l with staging := .spoiled d.seq } else l
    (d.marked = true → AnswerGives .drainReadAnswer ans s
        { ended with links := s.links.set k (l.drained st) })
    ∧ (d.marked = false → checkCorrect rec = true → recSeq rec = d.seq →
        AnswerGives .drainReadAnswer (.ok rec) s
          { ended with links := s.links.set k { l with staging := .copy d.seq rec } })
    ∧ (d.marked = false → ¬(checkCorrect rec = true ∧ recSeq rec = d.seq) →
        AnswerEndsIn .drainReadAnswer (.ok rec) s (ended.faultedWith k .ringCheck (some 22#8) spoils)
          (s.writer.owed.plus (.station k) (faultEvent st k)) [])
    ∧ (d.marked = false → AnswerEndsIn .drainReadAnswer .fault s
        { ended.faultedWith k .memory (some 21#8) spoils with
          log := loggedWith s.log ⟨.memFault, .drain, false, d.addr, 0#32, some k, 0#8⟩ }
        ((s.writer.owed.logged s.log).plus (.station k) (faultEvent st k)) [.errorLog])

/-! ### The drive links -/

/-- A character is read under the settings it began under, inverted when they say so (R100, R101); a
framing or parity error taints its frame (R102); the first character begins a frame, received when
the queue has room and an overrun, counted, when it has none (R106); a later one is counted, the first
five bytes being kept (R105). After a framing error no character is formed until the line has returned
to mark (R102), which it has done where the last stop bit selected was at mark. With no frame being
received, after a reset too, the first character completed begins one at once (log 37).
FRAME_END, 2 character times after the last complete character (R103): a received frame that passes
the tests of R105 joins the end of the queue; one that does not is counted as a link error and
discarded; an overrun, and a frame dropped by a bus reset, is discarded uncounted (R106, R128). ACCEPTk
is asserted exactly while the queue holds fewer than 2 frames (R106).
The model's own choices it rests on: logs 3, 14, 15, 37. -/
def Obligations.CharactersMakeFrames : Prop :=
  (∀ (s : State) (k : StationId) (c : SampledChar), s.porst = false →
      let l := s.links[k]
      let set := c.begunUnder.getD l.line
      let byte := if set.invert then ~~~c.data else c.data
      let framing : Bool := c.stop1High == set.invert || (set.twoStopBits && c.stop2High == set.invert)
      let parity : Bool := match set.parity with
        | .none => false
        | .even => (ones byte + (c.parityHigh != set.invert).toNat) % 2 == 1
        | .odd => (ones byte + (c.parityHigh != set.invert).toNat) % 2 == 0
      let lastStop : Bool := if set.twoStopBits then c.stop2High else c.stop1High
      let becomes (f : RxFrame) : State :=
        { s with links := s.links.set k { l with rx := some f, waitMark := lastStop == set.invert } }
      (l.waitMark = true → exec (.characterComplete k c) s = .next s)
      ∧ (l.waitMark = false → ∀ f, l.rx = some f → exec (.characterComplete k c) s =
          .next (becomes { f with kept := if f.kept.length < 5 then f.kept ++ [byte] else f.kept
                                  count := f.count + 1, tainted := f.tainted || framing || parity
                                  lastAt := s.now }))
      ∧ (l.waitMark = false → l.rx = none → l.queue.length < 2 → exec (.characterComplete k c) s =
          .next (becomes ⟨.received, [byte], 1, framing || parity, s.now⟩))
      ∧ (l.waitMark = false → l.rx = none → ¬l.queue.length < 2 → EndsIn (.characterComplete k c) s
          (let o := s.stations[k].counters
           { becomes ⟨.overrun, [], 1, false, s.now⟩ with
             stations := s.stations.set k
               { s.stations[k] with counters := { o with overruns := satInc o.overruns } } })
          s.writer.owed [])
      ∧ exec (.lineReturnedToMark k) s =
          .next { s with links := s.links.set k { l with waitMark := false } })
  ∧ (∀ (s : State) (k : StationId) (f : RxFrame), s.porst = false → s.links[k].rx = some f →
    let l := s.links[k]
    let now := max s.now (f.lastAt + 2 * (bitsPerChar l.line * (16 * (l.line.divisor.toNat + 1))))
    let cleared : State := { s with now := now, links := s.links.set k { l with rx := none } }
    let sums : Prop := byteSum f.kept = 0#8 ∧ f.tainted = false ∧ f.count = f.kept.length
    let queued (d : DriveFrame) : Prop := exec (.frameEnd k) s = .next
      { s with now := now, links := s.links.set k { l with rx := none, queue := l.queue ++ [d] } }
    (f.mode = .received → sums →
      (∀ a b c, f.kept = [0xA1#8, a, b, c] → queued (.acc (b ++ a)))
      ∧ (∀ a b c, f.kept = [0xA2#8, a, b, c] → queued (.done (b ++ a)))
      ∧ (∀ a b r c, f.kept = [0xA3#8, a, b, r, c] → queued (.nak (b ++ a) r))
      ∧ (∀ e c, f.kept = [0xA4#8, e, c] → queued (.flt e)))
    ∧ (f.mode = .received → (¬sums ∨ frameOf f.kept = none) → EndsIn (.frameEnd k) s
        (let o := s.stations[k].counters
         { cleared with
           stations := s.stations.set k
             { s.stations[k] with counters := { o with linkErrors := satInc o.linkErrors } } })
        s.writer.owed [])
    ∧ (f.mode ≠ .received → exec (.frameEnd k) s = .next cleared))
  ∧ ∀ (s : State) (k : StationId), s.acceptHigh k = true ↔ s.links[k].queue.length < 2

/-- While a station's feed is OFF and its command slot idle, the oldest frame of its queue is taken and
discarded as stale, whatever it is (R107).
An ACC for the outstanding SEG, in any phase, clears it, advances send and empties the staging buffer
(R117); a NAK(FULL) for it clears it and sets the full wait, the copy staying staged (R120); for
another sequence number, or with none outstanding, either is stale (R107, R117). A counter stays at
65535 once it reaches it (R71). -/
def Obligations.StaleAccAndFullTaken : Prop :=
  (∀ c : BitVec 16, satInc c = if c = 0xFFFF#16 then c else c + 1#16)
  ∧ (∀ (s : State) (k : StationId) (d : DriveFrame) (rest : List DriveFrame), s.porst = false →
      s.stations[k].progress = .idle → s.stations[k].feed = .off → s.links[k].queue = d :: rest →
      let o := s.stations[k].counters
      EndsIn (frameRow k d) s
        { s with
          links := s.links.set k { s.links[k] with queue := rest }
          stations := s.stations.set k
            { s.stations[k] with counters := { o with stale := satInc o.stale } } }
        s.writer.owed [])
  ∧ ∀ (s : State) (k : StationId) (q : Seq) (rest : List DriveFrame), s.porst = false →
    s.stations[k].progress = .idle → s.stations[k].feed ≠ .off →
    let st := s.stations[k]
    let l := s.links[k]
    let sent : Station := { st with send := st.send + 1#16 }
    let cleared : Link := { l with
      queue := rest, outstanding := none, ackTimer := none, retry := 0, staging := .empty }
    let popped : State := { s with links := s.links.set k { l with queue := rest } }
    let stale : State := { popped with
      stations := s.stations.set k
        { st with counters := { st.counters with stale := satInc st.counters.stale } } }
    (l.queue = .acc q :: rest →
      (∀ phase, l.outstanding = some ⟨q, phase⟩ → EndsIn (.accFrame k) s
        { s with
          stations := s.stations.set k sent
          links := s.links.set k (cleared.drained sent) }
        s.writer.owed [])
      ∧ ((∀ phase, l.outstanding ≠ some ⟨q, phase⟩) → EndsIn (.accFrame k) s stale s.writer.owed []))
    ∧ (l.queue = .nak q 2#8 :: rest →
      (∀ phase, l.outstanding = some ⟨q, phase⟩ → exec (.nakFull k) s = .next { s with
        links := s.links.set k { l with
          queue := rest, outstanding := none, ackTimer := none, fullWait := true } })
      ∧ ((∀ phase, l.outstanding ≠ some ⟨q, phase⟩) → EndsIn (.nakFull k) s stale s.writer.owed []))

/-- R123: a DONE for sequence done, with done before post, advances done, clears the full wait and
credits the gate; when it leaves send before done it carries send to done, and clears the outstanding
SEG, the staging buffer and the retry count and marks a drain read; a SEG on the wire, which has stopped
being send, will end without effect (R115). Another DONE is stale. -/
def Obligations.DoneTaken : Prop :=
  ∀ (s : State) (k : StationId) (q : Seq) (rest : List DriveFrame), s.porst = false →
    s.stations[k].progress = .idle → s.stations[k].feed ≠ .off → s.links[k].queue = .done q :: rest →
    let st := s.stations[k]
    let l := s.links[k]
    let carries : Prop := seqBefore st.send (st.done + 1#16) = true
    let ahead : Station := { st with done := st.done + 1#16 }
    let carried : Station := { ahead with send := st.done + 1#16 }
    let kept : Link := { l with queue := rest, fullWait := false }
    let given : Link := { kept with
      outstanding := none, ackTimer := none, retry := 0, staging := .empty
      drain := l.drain.map fun d => { d with marked := true }
      tx := l.tx.map Tx.void }
    (q = st.done → seqBefore st.done st.post = true →
      (¬carries → EndsIn (.doneFrame k) s
        { s with stations := s.stations.set k ahead
                 links := s.links.set k (kept.drained ahead)
                 gate := s.gate.completed k q } s.writer.owed [])
      ∧ (carries → EndsIn (.doneFrame k) s
        { s with stations := s.stations.set k carried
                 links := s.links.set k (given.drained carried)
                 gate := s.gate.completed k q } s.writer.owed []))
    ∧ (¬(q = st.done ∧ seqBefore st.done st.post = true) → EndsIn (.doneFrame k) s
        { s with
          links := s.links.set k { l with queue := rest }
          stations := s.stations.set k
            { st with counters := { st.counters with stale := satInc st.counters.stale } } }
        s.writer.owed [])

/-- NAK(CHECK) for the waiting SEG, and the ack timer's expiry (R116, R118): the timer stops and the
retry count is raised; up to the retry limit a resend is decided, and past it the drive enters FAULT
with code LINK_TIMEOUT. A NAK(CHECK) that does not match is stale.
The model's own choices it rests on: log 3. -/
def Obligations.RetryOrTimeout : Prop :=
  ∀ (s : State) (k : StationId), s.porst = false →
    let st := s.stations[k]
    let within (l : Link) : Prop := l.retry + 1 ≤ fieldOf s.shadows.stations[k][12] 16 3
    let resent (l : Link) : Link := { l with
      ackTimer := none, retry := l.retry + 1
      outstanding := l.outstanding.map fun o => { o with phase := .resend } }
    let given (b : State) (l : Link) : State :=
      ({ b with links := b.links.set k { l with ackTimer := none, retry := l.retry + 1 } }).faultedWith k
        .linkTimeout (some 17#8) fun _ l => l
    let owed := s.writer.owed.plus (.station k) (faultEvent st k)
    (∀ q rest, st.progress = .idle → st.feed ≠ .off → s.links[k].queue = .nak q 1#8 :: rest →
      let l : Link := { s.links[k] with queue := rest }
      (l.outstanding = some ⟨q, .waiting⟩ → within l →
        exec (.nakCheck k) s = .next { s with links := s.links.set k (resent l) })
      ∧ (l.outstanding = some ⟨q, .waiting⟩ → ¬within l → EndsIn (.nakCheck k) s (given s l) owed [])
      ∧ (l.outstanding ≠ some ⟨q, .waiting⟩ → EndsIn (.nakCheck k) s
          { s with
            links := s.links.set k l
            stations := s.stations.set k
              { st with counters := { st.counters with stale := satInc st.counters.stale } } }
          s.writer.owed []))
    ∧ ∀ t, s.links[k].ackTimer = some t →
      let later : State := { s with now := max s.now (t.start + t.limit) }
      (within s.links[k] → exec (.ackTimerExpiry k) s =
        .next { later with links := s.links.set k (resent s.links[k]) })
      ∧ (¬within s.links[k] → EndsIn (.ackTimerExpiry k) s (given later s.links[k]) owed [])

/-- A NAK with a reason other than CHECK and FULL for the outstanding SEG takes the drive to FAULT with
code DRIVE_REFUSED (R121), and a FLT takes a RUNNING or HELD drive to FAULT with code DRIVE_FAULT and
the drive's own byte, with no HALT queued (R57, R122). A NAK that does not match is stale. -/
def Obligations.DriveRefusesOrFaults : Prop :=
  ∀ (s : State) (k : StationId) (rest : List DriveFrame), s.porst = false →
    s.stations[k].progress = .idle → s.stations[k].feed ≠ .off →
    let st := s.stations[k]
    let popped : State := { s with links := s.links.set k { s.links[k] with queue := rest } }
    let owed := s.writer.owed.plus (.station k) (faultEvent st k)
    (∀ q r, s.links[k].queue = .nak q r :: rest → r ≠ 1#8 → r ≠ 2#8 →
      (∀ phase, s.links[k].outstanding = some ⟨q, phase⟩ → EndsIn (.nakTravel k) s
        (popped.faultedWith k .driveRefused (some 18#8) fun _ l => l) owed [])
      ∧ ((∀ phase, s.links[k].outstanding ≠ some ⟨q, phase⟩) → EndsIn (.nakTravel k) s
        { popped with
          stations := s.stations.set k
            { st with counters := { st.counters with stale := satInc st.counters.stale } } }
        s.writer.owed []))
    ∧ (∀ c, s.links[k].queue = .flt c :: rest → EndsIn (.fltFrame k) s
        (popped.faultedWith k (.driveFault c) none fun _ l => l) owed [])

/-- A frame is begun when the wire is free, 3 character times after the last frame (R108): a HALT in the
slot whatever READY says, staying there until it has been sent; a GO when READY is asserted, leaving
the slot (R109, R110); a SEG of the staged copy when the conditions of R114 hold: the drive RUNNING, send
before post, fewer copies from done to send than the queue depth, where 0 acts as 1 and more than 8 as 8
(R101), send not after the oldest gate entry (R95), no SEG outstanding, no full wait, READY asserted and
the slot empty; and a decided resend, with READY asserted and the slot empty, which is counted (R119).
A begin row whose frame may not be begun leaves the state as it is (log 2): each of the four while a
frame is in transmission, and each where one of its conditions fails. The bytes are those of Table 6-2, ending in the check byte (R104, R189), and
TXDk carries them (R100, R103): mark while no frame is in transmission, and otherwise the bit that is
due, of start bit, data bits least significant first, parity bit and stop bits of each character in
turn, all inverted when the line settings say so. READY is taken at any time (log 7).
The model's own choices it rests on: logs 2, 3, 7, 12. -/
def Obligations.FramesBegin : Prop :=
  (∀ (s : State) (k : StationId) (b : Bool), s.porst = false → exec (.readyChange k b) s =
      .next { s with links := s.links.set k { s.links[k] with ready := b } })
  ∧ (∀ (s : State) (k : StationId),
    let l := s.links[k]
    let sent (c : Byte) (j : Nat) : Bool :=
      if j = 0 then false
      else if j ≤ 8 then c.getLsbD (j - 1)
      else if j = 9 then match l.line.parity with
        | .none => true
        | .even => ones c % 2 == 1
        | .odd => ones c % 2 == 0
      else true
    (l.tx = none → s.txdHigh k = !l.line.invert)
    ∧ ∀ t i j c, l.tx = some t → t.bytes[i]? = some c → j < bitsPerChar l.line →
      (s.now - t.start) / (16 * (l.line.divisor.toNat + 1)) = bitsPerChar l.line * i + j →
      s.txdHigh k = (sent c j != l.line.invert))
  ∧ (∀ (s : State) (k : StationId) (i : Instr), s.links[k].tx ≠ none →
    (i = .haltBegin k ∨ i = .goBegin k ∨ i = .segBegin k ∨ i = .resendBegin k) → exec i s = .next s)
  ∧ (∀ (s : State) (k : StationId), s.porst = false → s.links[k].tx = none →
    let l := s.links[k]
    let st := s.stations[k]
    let now := max s.now (l.gapFrom + 3 * (bitsPerChar l.line * (16 * (l.line.divisor.toNat + 1))))
    let begun (l : Link) (kind : TxKind) (bytes : List Byte) : State :=
      { s with now := now, links := s.links.set k { l with tx := some ⟨kind, bytes, now⟩ } }
    let field := fieldOf s.shadows.stations[k][12] 12 4
    let depth := if field = 0 then 1 else if 8 < field then 8 else field
    let maySend : Prop := st.drive = .running ∧ seqBefore st.send st.post = true
      ∧ seqDist st.done st.send < depth
      ∧ (∀ e, s.gate.entries[0]? = some e → seqBefore e.seq st.send = false)
      ∧ l.outstanding = none ∧ l.fullWait = false ∧ l.ready = true ∧ l.slot = .empty
    let mayResend : Prop := l.ready = true ∧ l.slot = .empty
    (∀ r, l.slot = .halt r → exec (.haltBegin k) s =
        .next (begun l .halt [0x52#8, r, -(0x52#8 + r)]))
    ∧ ((∀ r, l.slot ≠ .halt r) → exec (.haltBegin k) s = .next s)
    ∧ (l.slot = .go → l.ready = true → exec (.goBegin k) s =
        .next (begun { l with slot := .empty } .go [0x53#8, 0xAD#8]))
    ∧ (¬(l.slot = .go ∧ l.ready = true) → exec (.goBegin k) s = .next s)
    ∧ (∀ m, l.staging = .copy st.send m → maySend →
        exec (.segBegin k) s = .next (begun l (.seg st.send false) (segFrame m)))
    ∧ (¬maySend → exec (.segBegin k) s = .next s)
    ∧ ((∀ m, l.staging ≠ .copy st.send m) → exec (.segBegin k) s = .next s)
    ∧ (∀ q c m, l.outstanding = some ⟨q, .resend⟩ → l.staging = .copy c m → mayResend →
        EndsIn (.resendBegin k) s
          { begun { l with outstanding := some ⟨q, .onWire⟩ } (.resend q false) (segFrame m) with
            stations := s.stations.set k { st with
              counters := { st.counters with retries := satInc st.counters.retries } } }
          s.writer.owed [])
    ∧ ((∀ q, l.outstanding ≠ some ⟨q, .resend⟩) → exec (.resendBegin k) s = .next s)
    ∧ ((∀ c m, l.staging ≠ .copy c m) → exec (.resendBegin k) s = .next s)
    ∧ (¬mayResend → exec (.resendBegin k) s = .next s))
  ∧ ∀ m : Record, (segFrame m).length = 34 ∧ byteSum (segFrame m) = 0#8
        ∧ (segFrame m)[0]? = some 0x51#8
        ∧ ∀ (w : Fin 8) (b : Fin 4), (segFrame m)[1 + 4 * w.val + b.val]? =
          some (m[w].extractLsb' (8 * b.val) 8)

/-- The end of a frame's last stop bit frees the wire (R103, R108). A HALT leaves the slot (R110); the
SEG of a station still RUNNING with send at it becomes the outstanding SEG, WAITING with its timer
started (R115); a resend that is still outstanding goes back to WAITING (R119); any other, and a void
one, has no effect; and with the frame and any
HALT sent, the work of a bus reset ends with the link on the shadow's line settings (R128).
The model's own choices it rests on: log 3. -/
def Obligations.FrameTransmitEnds : Prop :=
  ∀ (s : State) (k : StationId) (t : Tx), s.porst = false → s.links[k].tx = some t →
    let st := s.stations[k]
    let l := s.links[k]
    let now := max s.now
      (t.start + t.bytes.length * (bitsPerChar l.line * (16 * (l.line.divisor.toNat + 1))))
    let free : Link := { l with tx := none, gapFrom := now }
    let timer : AckTimer := ⟨now, max 1 (fieldOf s.shadows.stations[k][14] 8 8) * 48000⟩
    let becomes (f : Link) : Prop := exec (.frameTransmitEnd k) s = .next { s with
      now := now
      links := s.links.set k (if l.resetWork = true ∧ (∀ h, f.slot ≠ .halt h) then
        { f with resetWork := false, line := cbLine s.shadows.stations[k] } else f) }
    (t.kind = .halt → becomes { free with slot := .empty })
    ∧ (t.kind = .go → becomes free)
    ∧ (∀ q, t.kind = .seg q false → st.drive = .running → st.send = q → becomes { free with
        outstanding := some ⟨q, .waiting⟩, retry := 0, ackTimer := some timer })
    ∧ (∀ q, t.kind = .resend q false → l.outstanding = some ⟨q, .onWire⟩ → becomes { free with
        outstanding := some ⟨q, .waiting⟩, ackTimer := some timer })
    ∧ (∀ q, t.kind = .seg q false → (st.drive ≠ .running ∨ st.send ≠ q) → becomes free)
    ∧ (∀ q, t.kind = .resend q false → l.outstanding ≠ some ⟨q, .onWire⟩ → becomes free)
    ∧ (∀ q, t.kind = .seg q true ∨ t.kind = .resend q true → becomes free)

/-! ### Break and stop inputs -/

/-- A change of break line k's raw level starts the stability timer when the level differs from the
qualified one, a running timer going on, and clears it when it does not (R129); with a filter time of
0 the change qualifies at once, and the timer reaching the filter time qualifies it (R129, R130): a
level that has already stood for the filter time qualifies before the line leaves it (log 33). A
qualified change marks the record (R137), and one that is an edge under the polarity counts, owes the
event bit and asks the drive to enter HELD with reason BREAK (R131, R132). The polarity field's value 0
is RISING, 1 FALLING, 2 BOTH, and 3 acts as BOTH (R131).
The model's own choices it rests on: logs 3, 10, 33. -/
def Obligations.BreakLineQualifies : Prop :=
  (∀ (s : State) (k : StationId) (level : Bool), s.porst = false →
    let m := s.breaks[k]
    let filter := fieldOf s.shadows.stations[k][14] 0 4 * 3072
    let due : Prop := ∃ t, m.timer = some t ∧ t + filter ≤ s.now
    let row : Instr := .breakLineChange k level
    let monitored (n : Monitor) : State := { s with breaks := s.breaks.set k n }
    let o := s.stations[k].counters
    let counted : Station := { s.stations[k] with
      counters := { o with breaks := satInc o.breaks } }
    let qualifies (i : Instr) (change : Bool) (b : State) : Prop :=
      (EdgeUnder (cbPolarity s.shadows.stations[k]) change → EndsIn i s
        (State.heldBy { b with stations := s.stations.set k counted } k .breakLine)
        (s.writer.owed.plus (.station k) (eventBit k)) [.station k])
      ∧ (¬EdgeUnder (cbPolarity s.shadows.stations[k]) change →
        EndsIn i s b s.writer.owed [.station k])
    (¬due → (m.timer ≠ none ∨ filter ≠ 0 ∨ level = m.qualified) → exec row s = .next (monitored
        ⟨level, m.qualified, if level = m.qualified then none else some (m.timer.getD s.now)⟩))
    ∧ (m.timer = none → filter = 0 → level ≠ m.qualified →
        qualifies row level (monitored ⟨level, level, none⟩))
    ∧ (due → (level = m.raw ∨ filter ≠ 0) → qualifies row m.raw (monitored
        ⟨level, m.raw, if level = m.raw then none else some s.now⟩))
    ∧ (due → level ≠ m.raw → filter = 0 → exec row s = .next (report s
        (((s.breakQualifies k).setBreak k ⟨level, m.raw, some s.now⟩).breakQualifies k)))
    ∧ (∀ t, m.timer = some t → qualifies (.breakQualifiedChange k) m.raw
        { monitored ⟨m.raw, m.raw, none⟩ with now := max s.now (t + filter) }))
  ∧ (∀ (s : State) (k : StationId),
    let m := s.breaks[k]
    let o := s.stations[k].counters
    let b : State := { s with breaks := s.breaks.set k ⟨m.raw, m.raw, none⟩ }
    let counted : Station := { s.stations[k] with
      counters := { o with breaks := satInc o.breaks } }
    (EdgeUnder (cbPolarity s.shadows.stations[k]) m.raw → Reports s
      (State.heldBy { b with stations := s.stations.set k counted } k .breakLine)
      (s.writer.owed.plus (.station k) (eventBit k)) [.station k] (s.breakQualifies k))
    ∧ (¬EdgeUnder (cbPolarity s.shadows.stations[k]) m.raw →
      Reports s b s.writer.owed [.station k] (s.breakQualifies k)))
  ∧ ∀ b : Block, let field := fieldOf b[14] 4 2
    cbPolarity b = if field = 0 then .rising else if field = 1 then .falling else .both

/-- The stop line (R134, R135, R137): its raw level starts or clears the timer as a break line's does; a
fall that has stood for 256 µs asks each station to enter HELD with reason STOP, a rise moves no
drive, and either marks the job status record and owes it the stop-change bit. A level that has
already stood for 256 µs qualifies before the line leaves it (log 33).
The model's own choices it rests on: logs 3, 33. -/
def Obligations.StopLineQualifies : Prop :=
  ∀ (s : State) (level : Bool), s.porst = false →
    let m := s.stop
    let due : Prop := ∃ t, m.timer = some t ∧ t + 12288 ≤ s.now
    let rises (i : Instr) (now : Nat) (n : Monitor) : Prop :=
      EndsIn i s { s with now := now, stop := n } (s.writer.owed.plus .job stopChangeBit) [.job]
    let falls (i : Instr) (now : Nat) (n : Monitor) : Prop := ∃ u, exec i s = .next u
      ∧ u.stop = n ∧ u.now = now
      ∧ u.writer.owed.job = s.writer.owed.job ||| stopChangeBit
      ∧ u.writer.marks.get .job = true
      ∧ (∀ k : StationId,
        (s.stations[k].drive = .running →
          u.stations[k] = { s.stations[k] with drive := .held .stopLine, send := s.stations[k].done }
          ∧ u.links[k] = (s.links[k].rewind.placeHalt (some 4#8)).drained u.stations[k]
          ∧ u.writer.owed.get (.station k) = s.writer.owed.get (.station k) ||| eventBit k)
        ∧ (s.stations[k].drive ≠ .running → u.stations[k] = s.stations[k]
          ∧ u.links[k] = s.links[k].drained s.stations[k]
          ∧ u.writer.owed.get (.station k) = s.writer.owed.get (.station k)))
      ∧ (GateHoldsMembers s → u.gate = s.gate)
      ∧ u = { s with now := u.now, stop := u.stop, stations := u.stations, links := u.links
                     gate := u.gate, writer := u.writer }
    let left : Monitor := ⟨level, m.raw, if level = m.raw then none else some s.now⟩
    (¬due → exec (.stopLineChange level) s = .next { s with stop :=
        ⟨level, m.qualified, if level = m.qualified then none else some (m.timer.getD s.now)⟩ })
    ∧ (due → m.raw = true → rises (.stopLineChange level) s.now left)
    ∧ (due → m.raw = false → falls (.stopLineChange level) s.now left)
    ∧ ∀ t, m.timer = some t →
      let now := max s.now (t + 12288)
      (m.raw = true → rises .stopNegation now ⟨true, true, none⟩)
      ∧ (m.raw = false → falls .stopAssertion now ⟨false, false, none⟩)

/-! ### The sync gate -/

/-- The gate's operations (R90 to R95): a joining station becomes a member and is credited with every
entry before its done pointer, a leaving one is removed from the members and every done-set, a
member's completion of an entry enters its done-set and any other completion changes nothing, and a
commit appends an entry with the members already past it. Each is followed by the release test, which
removes exactly the complete entries at the front (R94). A copy of s may be sent unless s is after the
oldest entry (R95). Sequence numbers compare by the distance modulo 2^16 (R3). -/
def Obligations.GateOperations : Prop :=
  (∀ a b : Seq, seqDist a b = (b.toNat + 65536 - a.toNat) % 65536
    ∧ (seqBefore a b = true ↔ 1 ≤ seqDist a b ∧ seqDist a b ≤ 32767))
  ∧ (∀ (m : StationSet) (l : List GateEntry), ∃ gone, l = gone ++ releaseEntries m l
    ∧ (∀ e ∈ gone, ∀ k : StationId, inSet k m = true → inSet k e.doneSet = true)
    ∧ ∀ e rest, releaseEntries m l = e :: rest → ∃ k : StationId, inSet k m = true
      ∧ inSet k e.doneSet = false)
  ∧ (∀ (j k : StationId) (m : StationSet),
      (inSet j (m ||| stationBit k) = true ↔ inSet j m = true ∨ j = k)
      ∧ (inSet j (m &&& ~~~stationBit k) = true ↔ inSet j m = true ∧ j ≠ k))
  ∧ ∀ (g : Gate) (k : StationId) (q : Seq),
    let credited (e : GateEntry) : GateEntry :=
      if seqBefore e.seq q = true then ⟨e.seq, e.doneSet ||| stationBit k⟩ else e
    let removed (e : GateEntry) : GateEntry := ⟨e.seq, e.doneSet &&& ~~~stationBit k⟩
    let completed (e : GateEntry) : GateEntry :=
      if e.seq = q then ⟨e.seq, e.doneSet ||| stationBit k⟩ else e
    ((g.join k q).members = g.members ||| stationBit k
      ∧ (g.join k q).entries = releaseEntries (g.join k q).members (g.entries.map credited))
    ∧ ((g.leave k).members = g.members &&& ~~~stationBit k
      ∧ (g.leave k).entries = releaseEntries (g.leave k).members (g.entries.map removed))
    ∧ (inSet k g.members = true → (∃ e ∈ g.entries, e.seq = q) →
        (g.completed k q).members = g.members
        ∧ (g.completed k q).entries = releaseEntries g.members (g.entries.map completed))
    ∧ (¬(inSet k g.members = true ∧ ∃ e ∈ g.entries, e.seq = q) → g.completed k q = g)
    ∧ (∀ stations : Vector Station 6, (g.insert stations q).members = g.members
        ∧ ∃ d, (∀ j : StationId, inSet j d = true ↔
            inSet j g.members = true ∧ seqBefore q stations[j].done = true)
          ∧ (g.insert stations q).entries = releaseEntries g.members (g.entries ++ [⟨q, d⟩]))
    ∧ (g.allows q = true ↔ ∀ e, g.entries.head? = some e → seqBefore e.seq q = false)

/-! ### Invariants -/

/-- Every step keeps the gate's member set equal to the stations whose feed is LIVE or CATCHUP and whose
drive is not in FAULT (R89). -/
def Obligations.StepsKeepGateMembers : Prop :=
  ∀ s t : State, GateHoldsMembers s → step s = .next t → GateHoldsMembers t

/-- Every step keeps a drive STOPPED exactly when its feed is OFF (R50); outside RUNNING no SEG
outstanding, no ack timer, no retry, no full wait, and send equal to done (R56); and a station whose
feed is OFF with post = send = done and an empty staging buffer (R50), no drain read but a marked one
(R70) and no replay turn that could still post to it (R79). -/
def Obligations.StepsKeepDrivesAtRest : Prop :=
  (∀ s t : State, StoppedExactlyOff s → step s = .next t → StoppedExactlyOff t)
  ∧ (∀ s t : State, RestsOutsideRunning s → step s = .next t → RestsOutsideRunning t)
  ∧ ∀ s t : State, OffHoldsNothing s → step s = .next t → OffHoldsNothing t

/-- Every step keeps the sequence numbers of the part in their order: done not after send, send not after
post and post − done at most C (R49); a LIVE station's post at the frontier, or past it by the commit in
flight, and a DETACHED or CATCHUP station's within N of it (R50); what is staged, read, outstanding or on
the wire for the current send (R113, R115); and the gate list ascending, before the frontier (R88). -/
def Obligations.StepsKeepSequenceOrder : Prop :=
  ∀ s t : State, SequencesInOrder s → step s = .next t → SequencesInOrder t

/-- Every step keeps the receive queues within 2 frames with room for the one being received (R106), the
gate list within 4 entries (R88), the unnamed pending bits zero (R166), a held sequence's transaction on
the port (R177), and N and C within the largest that OPEN and ATTACH accept (R21, R48). -/
def Obligations.StepsKeepBounds : Prop :=
  (∀ s t : State, QueueHasRoom s → step s = .next t → QueueHasRoom t)
  ∧ (∀ s t : State, GateListFits s → step s = .next t → GateListFits t)
  ∧ (∀ s t : State, PendingBitsNamed s → step s = .next t → PendingBitsNamed t)
  ∧ (∀ s t : State, HoldCarriesHolder s → step s = .next t → HoldCarriesHolder t)
  ∧ ∀ s t : State, SizesFit s → step s = .next t → SizesFit t

/-- The machine after power-on reset meets the invariants. -/
def Obligations.ResetMeetsInvariants : Prop :=
  GateHoldsMembers State.reset ∧ StoppedExactlyOff State.reset ∧ RestsOutsideRunning State.reset
    ∧ OffHoldsNothing State.reset ∧ SequencesInOrder State.reset
    ∧ QueueHasRoom State.reset ∧ GateListFits State.reset ∧ PendingBitsNamed State.reset
    ∧ HoldCarriesHolder State.reset ∧ SizesFit State.reset
end

