-- ==== Sys2Proof/Laws/State.lean ====
section
/-! SUPPORT. One lemma for each field under each named update of State: the field updated takes its
value and every other keeps its own. -/

namespace Sys2Proof.Machine

/-! ### setStation -/

@[simp] theorem setStation_now (s : State) (k : StationId) (x : Station) :
    (s.setStation k x).now = s.now := rfl
@[simp] theorem setStation_pending (s : State) (k : StationId) (x : Station) :
    (s.setStation k x).pending = s.pending := rfl
@[simp] theorem setStation_porst (s : State) (k : StationId) (x : Station) :
    (s.setStation k x).porst = s.porst := rfl
@[simp] theorem setStation_busrst (s : State) (k : StationId) (x : Station) :
    (s.setStation k x).busrst = s.busrst := rfl
@[simp] theorem setStation_taking (s : State) (k : StationId) (x : Station) :
    (s.setStation k x).taking = s.taking := rfl
@[simp] theorem setStation_boot (s : State) (k : StationId) (x : Station) :
    (s.setStation k x).boot = s.boot := rfl
@[simp] theorem setStation_proc (s : State) (k : StationId) (x : Station) :
    (s.setStation k x).proc = s.proc := rfl
@[simp] theorem setStation_cache (s : State) (k : StationId) (x : Station) :
    (s.setStation k x).cache = s.cache := rfl
@[simp] theorem setStation_shadows (s : State) (k : StationId) (x : Station) :
    (s.setStation k x).shadows = s.shadows := rfl
@[simp] theorem setStation_job (s : State) (k : StationId) (x : Station) :
    (s.setStation k x).job = s.job := rfl
@[simp] theorem setStation_stations (s : State) (k : StationId) (x : Station) :
    (s.setStation k x).stations = s.stations.set k x := rfl
@[simp] theorem setStation_links (s : State) (k : StationId) (x : Station) :
    (s.setStation k x).links = s.links := rfl
@[simp] theorem setStation_breaks (s : State) (k : StationId) (x : Station) :
    (s.setStation k x).breaks = s.breaks := rfl
@[simp] theorem setStation_stop (s : State) (k : StationId) (x : Station) :
    (s.setStation k x).stop = s.stop := rfl
@[simp] theorem setStation_gate (s : State) (k : StationId) (x : Station) :
    (s.setStation k x).gate = s.gate := rfl
@[simp] theorem setStation_replay (s : State) (k : StationId) (x : Station) :
    (s.setStation k x).replay = s.replay := rfl
@[simp] theorem setStation_port (s : State) (k : StationId) (x : Station) :
    (s.setStation k x).port = s.port := rfl
@[simp] theorem setStation_writer (s : State) (k : StationId) (x : Station) :
    (s.setStation k x).writer = s.writer := rfl
@[simp] theorem setStation_log (s : State) (k : StationId) (x : Station) :
    (s.setStation k x).log = s.log := rfl

/-! ### setLink -/

@[simp] theorem setLink_now (s : State) (k : StationId) (x : Link) : (s.setLink k x).now = s.now := rfl
@[simp] theorem setLink_pending (s : State) (k : StationId) (x : Link) :
    (s.setLink k x).pending = s.pending := rfl
@[simp] theorem setLink_porst (s : State) (k : StationId) (x : Link) : (s.setLink k x).porst = s.porst := rfl
@[simp] theorem setLink_busrst (s : State) (k : StationId) (x : Link) :
    (s.setLink k x).busrst = s.busrst := rfl
@[simp] theorem setLink_taking (s : State) (k : StationId) (x : Link) :
    (s.setLink k x).taking = s.taking := rfl
@[simp] theorem setLink_boot (s : State) (k : StationId) (x : Link) : (s.setLink k x).boot = s.boot := rfl
@[simp] theorem setLink_proc (s : State) (k : StationId) (x : Link) : (s.setLink k x).proc = s.proc := rfl
@[simp] theorem setLink_cache (s : State) (k : StationId) (x : Link) : (s.setLink k x).cache = s.cache := rfl
@[simp] theorem setLink_shadows (s : State) (k : StationId) (x : Link) :
    (s.setLink k x).shadows = s.shadows := rfl
@[simp] theorem setLink_job (s : State) (k : StationId) (x : Link) : (s.setLink k x).job = s.job := rfl
@[simp] theorem setLink_stations (s : State) (k : StationId) (x : Link) :
    (s.setLink k x).stations = s.stations := rfl
@[simp] theorem setLink_links (s : State) (k : StationId) (x : Link) :
    (s.setLink k x).links = s.links.set k x := rfl
@[simp] theorem setLink_breaks (s : State) (k : StationId) (x : Link) :
    (s.setLink k x).breaks = s.breaks := rfl
@[simp] theorem setLink_stop (s : State) (k : StationId) (x : Link) : (s.setLink k x).stop = s.stop := rfl
@[simp] theorem setLink_gate (s : State) (k : StationId) (x : Link) : (s.setLink k x).gate = s.gate := rfl
@[simp] theorem setLink_replay (s : State) (k : StationId) (x : Link) :
    (s.setLink k x).replay = s.replay := rfl
@[simp] theorem setLink_port (s : State) (k : StationId) (x : Link) : (s.setLink k x).port = s.port := rfl
@[simp] theorem setLink_writer (s : State) (k : StationId) (x : Link) :
    (s.setLink k x).writer = s.writer := rfl
@[simp] theorem setLink_log (s : State) (k : StationId) (x : Link) : (s.setLink k x).log = s.log := rfl

/-! ### setBreak -/

@[simp] theorem setBreak_now (s : State) (k : StationId) (x : Monitor) : (s.setBreak k x).now = s.now := rfl
@[simp] theorem setBreak_pending (s : State) (k : StationId) (x : Monitor) :
    (s.setBreak k x).pending = s.pending := rfl
@[simp] theorem setBreak_porst (s : State) (k : StationId) (x : Monitor) :
    (s.setBreak k x).porst = s.porst := rfl
@[simp] theorem setBreak_busrst (s : State) (k : StationId) (x : Monitor) :
    (s.setBreak k x).busrst = s.busrst := rfl
@[simp] theorem setBreak_taking (s : State) (k : StationId) (x : Monitor) :
    (s.setBreak k x).taking = s.taking := rfl
@[simp] theorem setBreak_boot (s : State) (k : StationId) (x : Monitor) :
    (s.setBreak k x).boot = s.boot := rfl
@[simp] theorem setBreak_proc (s : State) (k : StationId) (x : Monitor) :
    (s.setBreak k x).proc = s.proc := rfl
@[simp] theorem setBreak_cache (s : State) (k : StationId) (x : Monitor) :
    (s.setBreak k x).cache = s.cache := rfl
@[simp] theorem setBreak_shadows (s : State) (k : StationId) (x : Monitor) :
    (s.setBreak k x).shadows = s.shadows := rfl
@[simp] theorem setBreak_job (s : State) (k : StationId) (x : Monitor) : (s.setBreak k x).job = s.job := rfl
@[simp] theorem setBreak_stations (s : State) (k : StationId) (x : Monitor) :
    (s.setBreak k x).stations = s.stations := rfl
@[simp] theorem setBreak_links (s : State) (k : StationId) (x : Monitor) :
    (s.setBreak k x).links = s.links := rfl
@[simp] theorem setBreak_breaks (s : State) (k : StationId) (x : Monitor) :
    (s.setBreak k x).breaks = s.breaks.set k x := rfl
@[simp] theorem setBreak_stop (s : State) (k : StationId) (x : Monitor) :
    (s.setBreak k x).stop = s.stop := rfl
@[simp] theorem setBreak_gate (s : State) (k : StationId) (x : Monitor) :
    (s.setBreak k x).gate = s.gate := rfl
@[simp] theorem setBreak_replay (s : State) (k : StationId) (x : Monitor) :
    (s.setBreak k x).replay = s.replay := rfl
@[simp] theorem setBreak_port (s : State) (k : StationId) (x : Monitor) :
    (s.setBreak k x).port = s.port := rfl
@[simp] theorem setBreak_writer (s : State) (k : StationId) (x : Monitor) :
    (s.setBreak k x).writer = s.writer := rfl
@[simp] theorem setBreak_log (s : State) (k : StationId) (x : Monitor) : (s.setBreak k x).log = s.log := rfl

/-! ### setCounters -/

@[simp] theorem setCounters_now (s : State) (k : StationId) (x : Counters) :
    (s.setCounters k x).now = s.now := rfl
@[simp] theorem setCounters_pending (s : State) (k : StationId) (x : Counters) :
    (s.setCounters k x).pending = s.pending := rfl
@[simp] theorem setCounters_porst (s : State) (k : StationId) (x : Counters) :
    (s.setCounters k x).porst = s.porst := rfl
@[simp] theorem setCounters_busrst (s : State) (k : StationId) (x : Counters) :
    (s.setCounters k x).busrst = s.busrst := rfl
@[simp] theorem setCounters_taking (s : State) (k : StationId) (x : Counters) :
    (s.setCounters k x).taking = s.taking := rfl
@[simp] theorem setCounters_boot (s : State) (k : StationId) (x : Counters) :
    (s.setCounters k x).boot = s.boot := rfl
@[simp] theorem setCounters_proc (s : State) (k : StationId) (x : Counters) :
    (s.setCounters k x).proc = s.proc := rfl
@[simp] theorem setCounters_cache (s : State) (k : StationId) (x : Counters) :
    (s.setCounters k x).cache = s.cache := rfl
@[simp] theorem setCounters_shadows (s : State) (k : StationId) (x : Counters) :
    (s.setCounters k x).shadows = s.shadows := rfl
@[simp] theorem setCounters_job (s : State) (k : StationId) (x : Counters) :
    (s.setCounters k x).job = s.job := rfl
@[simp] theorem setCounters_stations (s : State) (k : StationId) (x : Counters) :
    (s.setCounters k x).stations = s.stations.set k { s.stations[k] with counters := x } := rfl
@[simp] theorem setCounters_links (s : State) (k : StationId) (x : Counters) :
    (s.setCounters k x).links = s.links := rfl
@[simp] theorem setCounters_breaks (s : State) (k : StationId) (x : Counters) :
    (s.setCounters k x).breaks = s.breaks := rfl
@[simp] theorem setCounters_stop (s : State) (k : StationId) (x : Counters) :
    (s.setCounters k x).stop = s.stop := rfl
@[simp] theorem setCounters_gate (s : State) (k : StationId) (x : Counters) :
    (s.setCounters k x).gate = s.gate := rfl
@[simp] theorem setCounters_replay (s : State) (k : StationId) (x : Counters) :
    (s.setCounters k x).replay = s.replay := rfl
@[simp] theorem setCounters_port (s : State) (k : StationId) (x : Counters) :
    (s.setCounters k x).port = s.port := rfl
@[simp] theorem setCounters_writer (s : State) (k : StationId) (x : Counters) :
    (s.setCounters k x).writer = s.writer := rfl
@[simp] theorem setCounters_log (s : State) (k : StationId) (x : Counters) :
    (s.setCounters k x).log = s.log := rfl

/-! ### setJob -/

@[simp] theorem setJob_now (s : State) (x : Job) : (s.setJob x).now = s.now := rfl
@[simp] theorem setJob_pending (s : State) (x : Job) : (s.setJob x).pending = s.pending := rfl
@[simp] theorem setJob_porst (s : State) (x : Job) : (s.setJob x).porst = s.porst := rfl
@[simp] theorem setJob_busrst (s : State) (x : Job) : (s.setJob x).busrst = s.busrst := rfl
@[simp] theorem setJob_taking (s : State) (x : Job) : (s.setJob x).taking = s.taking := rfl
@[simp] theorem setJob_boot (s : State) (x : Job) : (s.setJob x).boot = s.boot := rfl
@[simp] theorem setJob_proc (s : State) (x : Job) : (s.setJob x).proc = s.proc := rfl
@[simp] theorem setJob_cache (s : State) (x : Job) : (s.setJob x).cache = s.cache := rfl
@[simp] theorem setJob_shadows (s : State) (x : Job) : (s.setJob x).shadows = s.shadows := rfl
@[simp] theorem setJob_job (s : State) (x : Job) : (s.setJob x).job = x := rfl
@[simp] theorem setJob_stations (s : State) (x : Job) : (s.setJob x).stations = s.stations := rfl
@[simp] theorem setJob_links (s : State) (x : Job) : (s.setJob x).links = s.links := rfl
@[simp] theorem setJob_breaks (s : State) (x : Job) : (s.setJob x).breaks = s.breaks := rfl
@[simp] theorem setJob_stop (s : State) (x : Job) : (s.setJob x).stop = s.stop := rfl
@[simp] theorem setJob_gate (s : State) (x : Job) : (s.setJob x).gate = s.gate := rfl
@[simp] theorem setJob_replay (s : State) (x : Job) : (s.setJob x).replay = s.replay := rfl
@[simp] theorem setJob_port (s : State) (x : Job) : (s.setJob x).port = s.port := rfl
@[simp] theorem setJob_writer (s : State) (x : Job) : (s.setJob x).writer = s.writer := rfl
@[simp] theorem setJob_log (s : State) (x : Job) : (s.setJob x).log = s.log := rfl

/-! ### setGate -/

@[simp] theorem setGate_now (s : State) (x : Gate) : (s.setGate x).now = s.now := rfl
@[simp] theorem setGate_pending (s : State) (x : Gate) : (s.setGate x).pending = s.pending := rfl
@[simp] theorem setGate_porst (s : State) (x : Gate) : (s.setGate x).porst = s.porst := rfl
@[simp] theorem setGate_busrst (s : State) (x : Gate) : (s.setGate x).busrst = s.busrst := rfl
@[simp] theorem setGate_taking (s : State) (x : Gate) : (s.setGate x).taking = s.taking := rfl
@[simp] theorem setGate_boot (s : State) (x : Gate) : (s.setGate x).boot = s.boot := rfl
@[simp] theorem setGate_proc (s : State) (x : Gate) : (s.setGate x).proc = s.proc := rfl
@[simp] theorem setGate_cache (s : State) (x : Gate) : (s.setGate x).cache = s.cache := rfl
@[simp] theorem setGate_shadows (s : State) (x : Gate) : (s.setGate x).shadows = s.shadows := rfl
@[simp] theorem setGate_job (s : State) (x : Gate) : (s.setGate x).job = s.job := rfl
@[simp] theorem setGate_stations (s : State) (x : Gate) : (s.setGate x).stations = s.stations := rfl
@[simp] theorem setGate_links (s : State) (x : Gate) : (s.setGate x).links = s.links := rfl
@[simp] theorem setGate_breaks (s : State) (x : Gate) : (s.setGate x).breaks = s.breaks := rfl
@[simp] theorem setGate_stop (s : State) (x : Gate) : (s.setGate x).stop = s.stop := rfl
@[simp] theorem setGate_gate (s : State) (x : Gate) : (s.setGate x).gate = x := rfl
@[simp] theorem setGate_replay (s : State) (x : Gate) : (s.setGate x).replay = s.replay := rfl
@[simp] theorem setGate_port (s : State) (x : Gate) : (s.setGate x).port = s.port := rfl
@[simp] theorem setGate_writer (s : State) (x : Gate) : (s.setGate x).writer = s.writer := rfl
@[simp] theorem setGate_log (s : State) (x : Gate) : (s.setGate x).log = s.log := rfl

/-! ### setPort -/

@[simp] theorem setPort_now (s : State) (x : Port) : (s.setPort x).now = s.now := rfl
@[simp] theorem setPort_pending (s : State) (x : Port) : (s.setPort x).pending = s.pending := rfl
@[simp] theorem setPort_porst (s : State) (x : Port) : (s.setPort x).porst = s.porst := rfl
@[simp] theorem setPort_busrst (s : State) (x : Port) : (s.setPort x).busrst = s.busrst := rfl
@[simp] theorem setPort_taking (s : State) (x : Port) : (s.setPort x).taking = s.taking := rfl
@[simp] theorem setPort_boot (s : State) (x : Port) : (s.setPort x).boot = s.boot := rfl
@[simp] theorem setPort_proc (s : State) (x : Port) : (s.setPort x).proc = s.proc := rfl
@[simp] theorem setPort_cache (s : State) (x : Port) : (s.setPort x).cache = s.cache := rfl
@[simp] theorem setPort_shadows (s : State) (x : Port) : (s.setPort x).shadows = s.shadows := rfl
@[simp] theorem setPort_job (s : State) (x : Port) : (s.setPort x).job = s.job := rfl
@[simp] theorem setPort_stations (s : State) (x : Port) : (s.setPort x).stations = s.stations := rfl
@[simp] theorem setPort_links (s : State) (x : Port) : (s.setPort x).links = s.links := rfl
@[simp] theorem setPort_breaks (s : State) (x : Port) : (s.setPort x).breaks = s.breaks := rfl
@[simp] theorem setPort_stop (s : State) (x : Port) : (s.setPort x).stop = s.stop := rfl
@[simp] theorem setPort_gate (s : State) (x : Port) : (s.setPort x).gate = s.gate := rfl
@[simp] theorem setPort_replay (s : State) (x : Port) : (s.setPort x).replay = s.replay := rfl
@[simp] theorem setPort_port (s : State) (x : Port) : (s.setPort x).port = x := rfl
@[simp] theorem setPort_writer (s : State) (x : Port) : (s.setPort x).writer = s.writer := rfl
@[simp] theorem setPort_log (s : State) (x : Port) : (s.setPort x).log = s.log := rfl

/-! ### setTurn -/

@[simp] theorem setTurn_now (s : State) (x : Option ReplayTurn) : (s.setTurn x).now = s.now := rfl
@[simp] theorem setTurn_pending (s : State) (x : Option ReplayTurn) : (s.setTurn x).pending = s.pending := rfl
@[simp] theorem setTurn_porst (s : State) (x : Option ReplayTurn) : (s.setTurn x).porst = s.porst := rfl
@[simp] theorem setTurn_busrst (s : State) (x : Option ReplayTurn) : (s.setTurn x).busrst = s.busrst := rfl
@[simp] theorem setTurn_taking (s : State) (x : Option ReplayTurn) : (s.setTurn x).taking = s.taking := rfl
@[simp] theorem setTurn_boot (s : State) (x : Option ReplayTurn) : (s.setTurn x).boot = s.boot := rfl
@[simp] theorem setTurn_proc (s : State) (x : Option ReplayTurn) : (s.setTurn x).proc = s.proc := rfl
@[simp] theorem setTurn_cache (s : State) (x : Option ReplayTurn) : (s.setTurn x).cache = s.cache := rfl
@[simp] theorem setTurn_shadows (s : State) (x : Option ReplayTurn) : (s.setTurn x).shadows = s.shadows := rfl
@[simp] theorem setTurn_job (s : State) (x : Option ReplayTurn) : (s.setTurn x).job = s.job := rfl
@[simp] theorem setTurn_stations (s : State) (x : Option ReplayTurn) :
    (s.setTurn x).stations = s.stations := rfl
@[simp] theorem setTurn_links (s : State) (x : Option ReplayTurn) : (s.setTurn x).links = s.links := rfl
@[simp] theorem setTurn_breaks (s : State) (x : Option ReplayTurn) : (s.setTurn x).breaks = s.breaks := rfl
@[simp] theorem setTurn_stop (s : State) (x : Option ReplayTurn) : (s.setTurn x).stop = s.stop := rfl
@[simp] theorem setTurn_gate (s : State) (x : Option ReplayTurn) : (s.setTurn x).gate = s.gate := rfl
@[simp] theorem setTurn_replay (s : State) (x : Option ReplayTurn) :
    (s.setTurn x).replay = { s.replay with turn := x } := rfl
@[simp] theorem setTurn_port (s : State) (x : Option ReplayTurn) : (s.setTurn x).port = s.port := rfl
@[simp] theorem setTurn_writer (s : State) (x : Option ReplayTurn) : (s.setTurn x).writer = s.writer := rfl
@[simp] theorem setTurn_log (s : State) (x : Option ReplayTurn) : (s.setTurn x).log = s.log := rfl

/-! ### setWriter -/

@[simp] theorem setWriter_now (s : State) (x : Writer) : (s.setWriter x).now = s.now := rfl
@[simp] theorem setWriter_pending (s : State) (x : Writer) : (s.setWriter x).pending = s.pending := rfl
@[simp] theorem setWriter_porst (s : State) (x : Writer) : (s.setWriter x).porst = s.porst := rfl
@[simp] theorem setWriter_busrst (s : State) (x : Writer) : (s.setWriter x).busrst = s.busrst := rfl
@[simp] theorem setWriter_taking (s : State) (x : Writer) : (s.setWriter x).taking = s.taking := rfl
@[simp] theorem setWriter_boot (s : State) (x : Writer) : (s.setWriter x).boot = s.boot := rfl
@[simp] theorem setWriter_proc (s : State) (x : Writer) : (s.setWriter x).proc = s.proc := rfl
@[simp] theorem setWriter_cache (s : State) (x : Writer) : (s.setWriter x).cache = s.cache := rfl
@[simp] theorem setWriter_shadows (s : State) (x : Writer) : (s.setWriter x).shadows = s.shadows := rfl
@[simp] theorem setWriter_job (s : State) (x : Writer) : (s.setWriter x).job = s.job := rfl
@[simp] theorem setWriter_stations (s : State) (x : Writer) : (s.setWriter x).stations = s.stations := rfl
@[simp] theorem setWriter_links (s : State) (x : Writer) : (s.setWriter x).links = s.links := rfl
@[simp] theorem setWriter_breaks (s : State) (x : Writer) : (s.setWriter x).breaks = s.breaks := rfl
@[simp] theorem setWriter_stop (s : State) (x : Writer) : (s.setWriter x).stop = s.stop := rfl
@[simp] theorem setWriter_gate (s : State) (x : Writer) : (s.setWriter x).gate = s.gate := rfl
@[simp] theorem setWriter_replay (s : State) (x : Writer) : (s.setWriter x).replay = s.replay := rfl
@[simp] theorem setWriter_port (s : State) (x : Writer) : (s.setWriter x).port = s.port := rfl
@[simp] theorem setWriter_writer (s : State) (x : Writer) : (s.setWriter x).writer = x := rfl
@[simp] theorem setWriter_log (s : State) (x : Writer) : (s.setWriter x).log = s.log := rfl

/-! ### reach -/

@[simp] theorem reach_now (s : State) (x : Nat) : (s.reach x).now = max s.now x := rfl
@[simp] theorem reach_pending (s : State) (x : Nat) : (s.reach x).pending = s.pending := rfl
@[simp] theorem reach_porst (s : State) (x : Nat) : (s.reach x).porst = s.porst := rfl
@[simp] theorem reach_busrst (s : State) (x : Nat) : (s.reach x).busrst = s.busrst := rfl
@[simp] theorem reach_taking (s : State) (x : Nat) : (s.reach x).taking = s.taking := rfl
@[simp] theorem reach_boot (s : State) (x : Nat) : (s.reach x).boot = s.boot := rfl
@[simp] theorem reach_proc (s : State) (x : Nat) : (s.reach x).proc = s.proc := rfl
@[simp] theorem reach_cache (s : State) (x : Nat) : (s.reach x).cache = s.cache := rfl
@[simp] theorem reach_shadows (s : State) (x : Nat) : (s.reach x).shadows = s.shadows := rfl
@[simp] theorem reach_job (s : State) (x : Nat) : (s.reach x).job = s.job := rfl
@[simp] theorem reach_stations (s : State) (x : Nat) : (s.reach x).stations = s.stations := rfl
@[simp] theorem reach_links (s : State) (x : Nat) : (s.reach x).links = s.links := rfl
@[simp] theorem reach_breaks (s : State) (x : Nat) : (s.reach x).breaks = s.breaks := rfl
@[simp] theorem reach_stop (s : State) (x : Nat) : (s.reach x).stop = s.stop := rfl
@[simp] theorem reach_gate (s : State) (x : Nat) : (s.reach x).gate = s.gate := rfl
@[simp] theorem reach_replay (s : State) (x : Nat) : (s.reach x).replay = s.replay := rfl
@[simp] theorem reach_port (s : State) (x : Nat) : (s.reach x).port = s.port := rfl
@[simp] theorem reach_writer (s : State) (x : Nat) : (s.reach x).writer = s.writer := rfl
@[simp] theorem reach_log (s : State) (x : Nat) : (s.reach x).log = s.log := rfl

/-! ### answer -/

@[simp] theorem answer_now (s : State) (x : ProcAnswer) : (s.answer x).now = s.now := rfl
@[simp] theorem answer_pending (s : State) (x : ProcAnswer) : (s.answer x).pending = s.pending := rfl
@[simp] theorem answer_porst (s : State) (x : ProcAnswer) : (s.answer x).porst = s.porst := rfl
@[simp] theorem answer_busrst (s : State) (x : ProcAnswer) : (s.answer x).busrst = s.busrst := rfl
@[simp] theorem answer_taking (s : State) (x : ProcAnswer) : (s.answer x).taking = s.taking := rfl
@[simp] theorem answer_boot (s : State) (x : ProcAnswer) : (s.answer x).boot = s.boot := rfl
@[simp] theorem answer_proc (s : State) (x : ProcAnswer) : (s.answer x).proc = ⟨none, some x⟩ := rfl
@[simp] theorem answer_cache (s : State) (x : ProcAnswer) : (s.answer x).cache = s.cache := rfl
@[simp] theorem answer_shadows (s : State) (x : ProcAnswer) : (s.answer x).shadows = s.shadows := rfl
@[simp] theorem answer_job (s : State) (x : ProcAnswer) : (s.answer x).job = s.job := rfl
@[simp] theorem answer_stations (s : State) (x : ProcAnswer) : (s.answer x).stations = s.stations := rfl
@[simp] theorem answer_links (s : State) (x : ProcAnswer) : (s.answer x).links = s.links := rfl
@[simp] theorem answer_breaks (s : State) (x : ProcAnswer) : (s.answer x).breaks = s.breaks := rfl
@[simp] theorem answer_stop (s : State) (x : ProcAnswer) : (s.answer x).stop = s.stop := rfl
@[simp] theorem answer_gate (s : State) (x : ProcAnswer) : (s.answer x).gate = s.gate := rfl
@[simp] theorem answer_replay (s : State) (x : ProcAnswer) : (s.answer x).replay = s.replay := rfl
@[simp] theorem answer_port (s : State) (x : ProcAnswer) : (s.answer x).port = s.port := rfl
@[simp] theorem answer_writer (s : State) (x : ProcAnswer) : (s.answer x).writer = s.writer := rfl
@[simp] theorem answer_log (s : State) (x : ProcAnswer) : (s.answer x).log = s.log := rfl

/-! ### startWork -/

@[simp] theorem startWork_now (s : State) (x : ProcTxn) (w : TransitWork) :
    (s.startWork x w).now = s.now := rfl
@[simp] theorem startWork_pending (s : State) (x : ProcTxn) (w : TransitWork) :
    (s.startWork x w).pending = s.pending := rfl
@[simp] theorem startWork_porst (s : State) (x : ProcTxn) (w : TransitWork) :
    (s.startWork x w).porst = s.porst := rfl
@[simp] theorem startWork_busrst (s : State) (x : ProcTxn) (w : TransitWork) :
    (s.startWork x w).busrst = s.busrst := rfl
@[simp] theorem startWork_taking (s : State) (x : ProcTxn) (w : TransitWork) :
    (s.startWork x w).taking = s.taking := rfl
@[simp] theorem startWork_boot (s : State) (x : ProcTxn) (w : TransitWork) :
    (s.startWork x w).boot = s.boot := rfl
@[simp] theorem startWork_proc (s : State) (x : ProcTxn) (w : TransitWork) :
    (s.startWork x w).proc = ⟨some ⟨x, w⟩, none⟩ := rfl
@[simp] theorem startWork_cache (s : State) (x : ProcTxn) (w : TransitWork) :
    (s.startWork x w).cache = s.cache := rfl
@[simp] theorem startWork_shadows (s : State) (x : ProcTxn) (w : TransitWork) :
    (s.startWork x w).shadows = s.shadows := rfl
@[simp] theorem startWork_job (s : State) (x : ProcTxn) (w : TransitWork) :
    (s.startWork x w).job = s.job := rfl
@[simp] theorem startWork_stations (s : State) (x : ProcTxn) (w : TransitWork) :
    (s.startWork x w).stations = s.stations := rfl
@[simp] theorem startWork_links (s : State) (x : ProcTxn) (w : TransitWork) :
    (s.startWork x w).links = s.links := rfl
@[simp] theorem startWork_breaks (s : State) (x : ProcTxn) (w : TransitWork) :
    (s.startWork x w).breaks = s.breaks := rfl
@[simp] theorem startWork_stop (s : State) (x : ProcTxn) (w : TransitWork) :
    (s.startWork x w).stop = s.stop := rfl
@[simp] theorem startWork_gate (s : State) (x : ProcTxn) (w : TransitWork) :
    (s.startWork x w).gate = s.gate := rfl
@[simp] theorem startWork_replay (s : State) (x : ProcTxn) (w : TransitWork) :
    (s.startWork x w).replay = s.replay := rfl
@[simp] theorem startWork_port (s : State) (x : ProcTxn) (w : TransitWork) :
    (s.startWork x w).port = s.port := rfl
@[simp] theorem startWork_writer (s : State) (x : ProcTxn) (w : TransitWork) :
    (s.startWork x w).writer = s.writer := rfl
@[simp] theorem startWork_log (s : State) (x : ProcTxn) (w : TransitWork) :
    (s.startWork x w).log = s.log := rfl

end Sys2Proof.Machine
end

