-- ==== Sys2Proof/Laws/Frames.lean ====
section
/-! SUPPORT. What each shared operation of Ops.lean can change: one frame lemma for each, which says
that the fields it does not name are those of the state before, and from it one lemma for each of
those fields. -/

namespace Sys2Proof.Machine

theorem mark_frame (s : State) (r : RecordId) :
    s.mark r = { s with writer := (s.mark r).writer } := rfl

@[simp] theorem mark_now (s : State) (r : RecordId) : (s.mark r).now = s.now :=
  (congrArg State.now (mark_frame s r)).trans rfl
@[simp] theorem mark_pending (s : State) (r : RecordId) : (s.mark r).pending = s.pending :=
  (congrArg State.pending (mark_frame s r)).trans rfl
@[simp] theorem mark_porst (s : State) (r : RecordId) : (s.mark r).porst = s.porst :=
  (congrArg State.porst (mark_frame s r)).trans rfl
@[simp] theorem mark_busrst (s : State) (r : RecordId) : (s.mark r).busrst = s.busrst :=
  (congrArg State.busrst (mark_frame s r)).trans rfl
@[simp] theorem mark_taking (s : State) (r : RecordId) : (s.mark r).taking = s.taking :=
  (congrArg State.taking (mark_frame s r)).trans rfl
@[simp] theorem mark_boot (s : State) (r : RecordId) : (s.mark r).boot = s.boot :=
  (congrArg State.boot (mark_frame s r)).trans rfl
@[simp] theorem mark_proc (s : State) (r : RecordId) : (s.mark r).proc = s.proc :=
  (congrArg State.proc (mark_frame s r)).trans rfl
@[simp] theorem mark_cache (s : State) (r : RecordId) : (s.mark r).cache = s.cache :=
  (congrArg State.cache (mark_frame s r)).trans rfl
@[simp] theorem mark_shadows (s : State) (r : RecordId) : (s.mark r).shadows = s.shadows :=
  (congrArg State.shadows (mark_frame s r)).trans rfl
@[simp] theorem mark_job (s : State) (r : RecordId) : (s.mark r).job = s.job :=
  (congrArg State.job (mark_frame s r)).trans rfl
@[simp] theorem mark_stations (s : State) (r : RecordId) : (s.mark r).stations = s.stations :=
  (congrArg State.stations (mark_frame s r)).trans rfl
@[simp] theorem mark_links (s : State) (r : RecordId) : (s.mark r).links = s.links :=
  (congrArg State.links (mark_frame s r)).trans rfl
@[simp] theorem mark_breaks (s : State) (r : RecordId) : (s.mark r).breaks = s.breaks :=
  (congrArg State.breaks (mark_frame s r)).trans rfl
@[simp] theorem mark_stop (s : State) (r : RecordId) : (s.mark r).stop = s.stop :=
  (congrArg State.stop (mark_frame s r)).trans rfl
@[simp] theorem mark_gate (s : State) (r : RecordId) : (s.mark r).gate = s.gate :=
  (congrArg State.gate (mark_frame s r)).trans rfl
@[simp] theorem mark_replay (s : State) (r : RecordId) : (s.mark r).replay = s.replay :=
  (congrArg State.replay (mark_frame s r)).trans rfl
@[simp] theorem mark_port (s : State) (r : RecordId) : (s.mark r).port = s.port :=
  (congrArg State.port (mark_frame s r)).trans rfl
@[simp] theorem mark_log (s : State) (r : RecordId) : (s.mark r).log = s.log :=
  (congrArg State.log (mark_frame s r)).trans rfl

theorem owe_frame (s : State) (r : RecordId) (b : Word) :
    s.owe r b = { s with writer := (s.owe r b).writer } := rfl

@[simp] theorem owe_now (s : State) (r : RecordId) (b : Word) : (s.owe r b).now = s.now :=
  (congrArg State.now (owe_frame s r b)).trans rfl
@[simp] theorem owe_pending (s : State) (r : RecordId) (b : Word) : (s.owe r b).pending = s.pending :=
  (congrArg State.pending (owe_frame s r b)).trans rfl
@[simp] theorem owe_porst (s : State) (r : RecordId) (b : Word) : (s.owe r b).porst = s.porst :=
  (congrArg State.porst (owe_frame s r b)).trans rfl
@[simp] theorem owe_busrst (s : State) (r : RecordId) (b : Word) : (s.owe r b).busrst = s.busrst :=
  (congrArg State.busrst (owe_frame s r b)).trans rfl
@[simp] theorem owe_taking (s : State) (r : RecordId) (b : Word) : (s.owe r b).taking = s.taking :=
  (congrArg State.taking (owe_frame s r b)).trans rfl
@[simp] theorem owe_boot (s : State) (r : RecordId) (b : Word) : (s.owe r b).boot = s.boot :=
  (congrArg State.boot (owe_frame s r b)).trans rfl
@[simp] theorem owe_proc (s : State) (r : RecordId) (b : Word) : (s.owe r b).proc = s.proc :=
  (congrArg State.proc (owe_frame s r b)).trans rfl
@[simp] theorem owe_cache (s : State) (r : RecordId) (b : Word) : (s.owe r b).cache = s.cache :=
  (congrArg State.cache (owe_frame s r b)).trans rfl
@[simp] theorem owe_shadows (s : State) (r : RecordId) (b : Word) : (s.owe r b).shadows = s.shadows :=
  (congrArg State.shadows (owe_frame s r b)).trans rfl
@[simp] theorem owe_job (s : State) (r : RecordId) (b : Word) : (s.owe r b).job = s.job :=
  (congrArg State.job (owe_frame s r b)).trans rfl
@[simp] theorem owe_stations (s : State) (r : RecordId) (b : Word) : (s.owe r b).stations = s.stations :=
  (congrArg State.stations (owe_frame s r b)).trans rfl
@[simp] theorem owe_links (s : State) (r : RecordId) (b : Word) : (s.owe r b).links = s.links :=
  (congrArg State.links (owe_frame s r b)).trans rfl
@[simp] theorem owe_breaks (s : State) (r : RecordId) (b : Word) : (s.owe r b).breaks = s.breaks :=
  (congrArg State.breaks (owe_frame s r b)).trans rfl
@[simp] theorem owe_stop (s : State) (r : RecordId) (b : Word) : (s.owe r b).stop = s.stop :=
  (congrArg State.stop (owe_frame s r b)).trans rfl
@[simp] theorem owe_gate (s : State) (r : RecordId) (b : Word) : (s.owe r b).gate = s.gate :=
  (congrArg State.gate (owe_frame s r b)).trans rfl
@[simp] theorem owe_replay (s : State) (r : RecordId) (b : Word) : (s.owe r b).replay = s.replay :=
  (congrArg State.replay (owe_frame s r b)).trans rfl
@[simp] theorem owe_port (s : State) (r : RecordId) (b : Word) : (s.owe r b).port = s.port :=
  (congrArg State.port (owe_frame s r b)).trans rfl
@[simp] theorem owe_log (s : State) (r : RecordId) (b : Word) : (s.owe r b).log = s.log :=
  (congrArg State.log (owe_frame s r b)).trans rfl

theorem oweEvent_frame (s : State) (k : StationId) :
    s.oweEvent k = { s with writer := (s.oweEvent k).writer } := rfl

@[simp] theorem oweEvent_now (s : State) (k : StationId) : (s.oweEvent k).now = s.now :=
  (congrArg State.now (oweEvent_frame s k)).trans rfl
@[simp] theorem oweEvent_pending (s : State) (k : StationId) : (s.oweEvent k).pending = s.pending :=
  (congrArg State.pending (oweEvent_frame s k)).trans rfl
@[simp] theorem oweEvent_porst (s : State) (k : StationId) : (s.oweEvent k).porst = s.porst :=
  (congrArg State.porst (oweEvent_frame s k)).trans rfl
@[simp] theorem oweEvent_busrst (s : State) (k : StationId) : (s.oweEvent k).busrst = s.busrst :=
  (congrArg State.busrst (oweEvent_frame s k)).trans rfl
@[simp] theorem oweEvent_taking (s : State) (k : StationId) : (s.oweEvent k).taking = s.taking :=
  (congrArg State.taking (oweEvent_frame s k)).trans rfl
@[simp] theorem oweEvent_boot (s : State) (k : StationId) : (s.oweEvent k).boot = s.boot :=
  (congrArg State.boot (oweEvent_frame s k)).trans rfl
@[simp] theorem oweEvent_proc (s : State) (k : StationId) : (s.oweEvent k).proc = s.proc :=
  (congrArg State.proc (oweEvent_frame s k)).trans rfl
@[simp] theorem oweEvent_cache (s : State) (k : StationId) : (s.oweEvent k).cache = s.cache :=
  (congrArg State.cache (oweEvent_frame s k)).trans rfl
@[simp] theorem oweEvent_shadows (s : State) (k : StationId) : (s.oweEvent k).shadows = s.shadows :=
  (congrArg State.shadows (oweEvent_frame s k)).trans rfl
@[simp] theorem oweEvent_job (s : State) (k : StationId) : (s.oweEvent k).job = s.job :=
  (congrArg State.job (oweEvent_frame s k)).trans rfl
@[simp] theorem oweEvent_stations (s : State) (k : StationId) : (s.oweEvent k).stations = s.stations :=
  (congrArg State.stations (oweEvent_frame s k)).trans rfl
@[simp] theorem oweEvent_links (s : State) (k : StationId) : (s.oweEvent k).links = s.links :=
  (congrArg State.links (oweEvent_frame s k)).trans rfl
@[simp] theorem oweEvent_breaks (s : State) (k : StationId) : (s.oweEvent k).breaks = s.breaks :=
  (congrArg State.breaks (oweEvent_frame s k)).trans rfl
@[simp] theorem oweEvent_stop (s : State) (k : StationId) : (s.oweEvent k).stop = s.stop :=
  (congrArg State.stop (oweEvent_frame s k)).trans rfl
@[simp] theorem oweEvent_gate (s : State) (k : StationId) : (s.oweEvent k).gate = s.gate :=
  (congrArg State.gate (oweEvent_frame s k)).trans rfl
@[simp] theorem oweEvent_replay (s : State) (k : StationId) : (s.oweEvent k).replay = s.replay :=
  (congrArg State.replay (oweEvent_frame s k)).trans rfl
@[simp] theorem oweEvent_port (s : State) (k : StationId) : (s.oweEvent k).port = s.port :=
  (congrArg State.port (oweEvent_frame s k)).trans rfl
@[simp] theorem oweEvent_log (s : State) (k : StationId) : (s.oweEvent k).log = s.log :=
  (congrArg State.log (oweEvent_frame s k)).trans rfl

theorem logError_frame (s : State) (e : ErrorKind) (o : Origin) (w : Bool) (a d : Word) (st : Option StationId) :
    s.logError e o w a d st = { s with writer := (s.logError e o w a d st).writer, log := (s.logError e o w a d st).log } := by
  unfold State.logError; split <;> rfl

@[simp] theorem logError_now (s : State) (e : ErrorKind) (o : Origin) (w : Bool) (a d : Word) (st : Option StationId) : (s.logError e o w a d st).now = s.now :=
  (congrArg State.now (logError_frame s e o w a d st)).trans rfl
@[simp] theorem logError_pending (s : State) (e : ErrorKind) (o : Origin) (w : Bool) (a d : Word) (st : Option StationId) : (s.logError e o w a d st).pending = s.pending :=
  (congrArg State.pending (logError_frame s e o w a d st)).trans rfl
@[simp] theorem logError_porst (s : State) (e : ErrorKind) (o : Origin) (w : Bool) (a d : Word) (st : Option StationId) : (s.logError e o w a d st).porst = s.porst :=
  (congrArg State.porst (logError_frame s e o w a d st)).trans rfl
@[simp] theorem logError_busrst (s : State) (e : ErrorKind) (o : Origin) (w : Bool) (a d : Word) (st : Option StationId) : (s.logError e o w a d st).busrst = s.busrst :=
  (congrArg State.busrst (logError_frame s e o w a d st)).trans rfl
@[simp] theorem logError_taking (s : State) (e : ErrorKind) (o : Origin) (w : Bool) (a d : Word) (st : Option StationId) : (s.logError e o w a d st).taking = s.taking :=
  (congrArg State.taking (logError_frame s e o w a d st)).trans rfl
@[simp] theorem logError_boot (s : State) (e : ErrorKind) (o : Origin) (w : Bool) (a d : Word) (st : Option StationId) : (s.logError e o w a d st).boot = s.boot :=
  (congrArg State.boot (logError_frame s e o w a d st)).trans rfl
@[simp] theorem logError_proc (s : State) (e : ErrorKind) (o : Origin) (w : Bool) (a d : Word) (st : Option StationId) : (s.logError e o w a d st).proc = s.proc :=
  (congrArg State.proc (logError_frame s e o w a d st)).trans rfl
@[simp] theorem logError_cache (s : State) (e : ErrorKind) (o : Origin) (w : Bool) (a d : Word) (st : Option StationId) : (s.logError e o w a d st).cache = s.cache :=
  (congrArg State.cache (logError_frame s e o w a d st)).trans rfl
@[simp] theorem logError_shadows (s : State) (e : ErrorKind) (o : Origin) (w : Bool) (a d : Word) (st : Option StationId) : (s.logError e o w a d st).shadows = s.shadows :=
  (congrArg State.shadows (logError_frame s e o w a d st)).trans rfl
@[simp] theorem logError_job (s : State) (e : ErrorKind) (o : Origin) (w : Bool) (a d : Word) (st : Option StationId) : (s.logError e o w a d st).job = s.job :=
  (congrArg State.job (logError_frame s e o w a d st)).trans rfl
@[simp] theorem logError_stations (s : State) (e : ErrorKind) (o : Origin) (w : Bool) (a d : Word) (st : Option StationId) : (s.logError e o w a d st).stations = s.stations :=
  (congrArg State.stations (logError_frame s e o w a d st)).trans rfl
@[simp] theorem logError_links (s : State) (e : ErrorKind) (o : Origin) (w : Bool) (a d : Word) (st : Option StationId) : (s.logError e o w a d st).links = s.links :=
  (congrArg State.links (logError_frame s e o w a d st)).trans rfl
@[simp] theorem logError_breaks (s : State) (e : ErrorKind) (o : Origin) (w : Bool) (a d : Word) (st : Option StationId) : (s.logError e o w a d st).breaks = s.breaks :=
  (congrArg State.breaks (logError_frame s e o w a d st)).trans rfl
@[simp] theorem logError_stop (s : State) (e : ErrorKind) (o : Origin) (w : Bool) (a d : Word) (st : Option StationId) : (s.logError e o w a d st).stop = s.stop :=
  (congrArg State.stop (logError_frame s e o w a d st)).trans rfl
@[simp] theorem logError_gate (s : State) (e : ErrorKind) (o : Origin) (w : Bool) (a d : Word) (st : Option StationId) : (s.logError e o w a d st).gate = s.gate :=
  (congrArg State.gate (logError_frame s e o w a d st)).trans rfl
@[simp] theorem logError_replay (s : State) (e : ErrorKind) (o : Origin) (w : Bool) (a d : Word) (st : Option StationId) : (s.logError e o w a d st).replay = s.replay :=
  (congrArg State.replay (logError_frame s e o w a d st)).trans rfl
@[simp] theorem logError_port (s : State) (e : ErrorKind) (o : Origin) (w : Bool) (a d : Word) (st : Option StationId) : (s.logError e o w a d st).port = s.port :=
  (congrArg State.port (logError_frame s e o w a d st)).trans rfl

theorem logProc_frame (s : State) (e : ErrorKind) (t : ProcTxn) :
    s.logProc e t = { s with writer := (s.logProc e t).writer, log := (s.logProc e t).log } := logError_frame s _ _ _ _ _ _

@[simp] theorem logProc_now (s : State) (e : ErrorKind) (t : ProcTxn) : (s.logProc e t).now = s.now :=
  (congrArg State.now (logProc_frame s e t)).trans rfl
@[simp] theorem logProc_pending (s : State) (e : ErrorKind) (t : ProcTxn) : (s.logProc e t).pending = s.pending :=
  (congrArg State.pending (logProc_frame s e t)).trans rfl
@[simp] theorem logProc_porst (s : State) (e : ErrorKind) (t : ProcTxn) : (s.logProc e t).porst = s.porst :=
  (congrArg State.porst (logProc_frame s e t)).trans rfl
@[simp] theorem logProc_busrst (s : State) (e : ErrorKind) (t : ProcTxn) : (s.logProc e t).busrst = s.busrst :=
  (congrArg State.busrst (logProc_frame s e t)).trans rfl
@[simp] theorem logProc_taking (s : State) (e : ErrorKind) (t : ProcTxn) : (s.logProc e t).taking = s.taking :=
  (congrArg State.taking (logProc_frame s e t)).trans rfl
@[simp] theorem logProc_boot (s : State) (e : ErrorKind) (t : ProcTxn) : (s.logProc e t).boot = s.boot :=
  (congrArg State.boot (logProc_frame s e t)).trans rfl
@[simp] theorem logProc_proc (s : State) (e : ErrorKind) (t : ProcTxn) : (s.logProc e t).proc = s.proc :=
  (congrArg State.proc (logProc_frame s e t)).trans rfl
@[simp] theorem logProc_cache (s : State) (e : ErrorKind) (t : ProcTxn) : (s.logProc e t).cache = s.cache :=
  (congrArg State.cache (logProc_frame s e t)).trans rfl
@[simp] theorem logProc_shadows (s : State) (e : ErrorKind) (t : ProcTxn) : (s.logProc e t).shadows = s.shadows :=
  (congrArg State.shadows (logProc_frame s e t)).trans rfl
@[simp] theorem logProc_job (s : State) (e : ErrorKind) (t : ProcTxn) : (s.logProc e t).job = s.job :=
  (congrArg State.job (logProc_frame s e t)).trans rfl
@[simp] theorem logProc_stations (s : State) (e : ErrorKind) (t : ProcTxn) : (s.logProc e t).stations = s.stations :=
  (congrArg State.stations (logProc_frame s e t)).trans rfl
@[simp] theorem logProc_links (s : State) (e : ErrorKind) (t : ProcTxn) : (s.logProc e t).links = s.links :=
  (congrArg State.links (logProc_frame s e t)).trans rfl
@[simp] theorem logProc_breaks (s : State) (e : ErrorKind) (t : ProcTxn) : (s.logProc e t).breaks = s.breaks :=
  (congrArg State.breaks (logProc_frame s e t)).trans rfl
@[simp] theorem logProc_stop (s : State) (e : ErrorKind) (t : ProcTxn) : (s.logProc e t).stop = s.stop :=
  (congrArg State.stop (logProc_frame s e t)).trans rfl
@[simp] theorem logProc_gate (s : State) (e : ErrorKind) (t : ProcTxn) : (s.logProc e t).gate = s.gate :=
  (congrArg State.gate (logProc_frame s e t)).trans rfl
@[simp] theorem logProc_replay (s : State) (e : ErrorKind) (t : ProcTxn) : (s.logProc e t).replay = s.replay :=
  (congrArg State.replay (logProc_frame s e t)).trans rfl
@[simp] theorem logProc_port (s : State) (e : ErrorKind) (t : ProcTxn) : (s.logProc e t).port = s.port :=
  (congrArg State.port (logProc_frame s e t)).trans rfl

theorem refuse_frame (s : State) (e : ErrorKind) (t : ProcTxn) :
    s.refuse e t = { s with proc := (s.refuse e t).proc, writer := (s.refuse e t).writer, log := (s.refuse e t).log } := by
  unfold State.refuse; rw [logProc_frame]; rfl

@[simp] theorem refuse_now (s : State) (e : ErrorKind) (t : ProcTxn) : (s.refuse e t).now = s.now :=
  (congrArg State.now (refuse_frame s e t)).trans rfl
@[simp] theorem refuse_pending (s : State) (e : ErrorKind) (t : ProcTxn) : (s.refuse e t).pending = s.pending :=
  (congrArg State.pending (refuse_frame s e t)).trans rfl
@[simp] theorem refuse_porst (s : State) (e : ErrorKind) (t : ProcTxn) : (s.refuse e t).porst = s.porst :=
  (congrArg State.porst (refuse_frame s e t)).trans rfl
@[simp] theorem refuse_busrst (s : State) (e : ErrorKind) (t : ProcTxn) : (s.refuse e t).busrst = s.busrst :=
  (congrArg State.busrst (refuse_frame s e t)).trans rfl
@[simp] theorem refuse_taking (s : State) (e : ErrorKind) (t : ProcTxn) : (s.refuse e t).taking = s.taking :=
  (congrArg State.taking (refuse_frame s e t)).trans rfl
@[simp] theorem refuse_boot (s : State) (e : ErrorKind) (t : ProcTxn) : (s.refuse e t).boot = s.boot :=
  (congrArg State.boot (refuse_frame s e t)).trans rfl
@[simp] theorem refuse_cache (s : State) (e : ErrorKind) (t : ProcTxn) : (s.refuse e t).cache = s.cache :=
  (congrArg State.cache (refuse_frame s e t)).trans rfl
@[simp] theorem refuse_shadows (s : State) (e : ErrorKind) (t : ProcTxn) : (s.refuse e t).shadows = s.shadows :=
  (congrArg State.shadows (refuse_frame s e t)).trans rfl
@[simp] theorem refuse_job (s : State) (e : ErrorKind) (t : ProcTxn) : (s.refuse e t).job = s.job :=
  (congrArg State.job (refuse_frame s e t)).trans rfl
@[simp] theorem refuse_stations (s : State) (e : ErrorKind) (t : ProcTxn) : (s.refuse e t).stations = s.stations :=
  (congrArg State.stations (refuse_frame s e t)).trans rfl
@[simp] theorem refuse_links (s : State) (e : ErrorKind) (t : ProcTxn) : (s.refuse e t).links = s.links :=
  (congrArg State.links (refuse_frame s e t)).trans rfl
@[simp] theorem refuse_breaks (s : State) (e : ErrorKind) (t : ProcTxn) : (s.refuse e t).breaks = s.breaks :=
  (congrArg State.breaks (refuse_frame s e t)).trans rfl
@[simp] theorem refuse_stop (s : State) (e : ErrorKind) (t : ProcTxn) : (s.refuse e t).stop = s.stop :=
  (congrArg State.stop (refuse_frame s e t)).trans rfl
@[simp] theorem refuse_gate (s : State) (e : ErrorKind) (t : ProcTxn) : (s.refuse e t).gate = s.gate :=
  (congrArg State.gate (refuse_frame s e t)).trans rfl
@[simp] theorem refuse_replay (s : State) (e : ErrorKind) (t : ProcTxn) : (s.refuse e t).replay = s.replay :=
  (congrArg State.replay (refuse_frame s e t)).trans rfl
@[simp] theorem refuse_port (s : State) (e : ErrorKind) (t : ProcTxn) : (s.refuse e t).port = s.port :=
  (congrArg State.port (refuse_frame s e t)).trans rfl

theorem completeStation_frame (s : State) (k : StationId) (c : BitVec 4) (r : Result) :
    s.completeStation k c r = { s with stations := (s.completeStation k c r).stations, writer := (s.completeStation k c r).writer } := rfl

@[simp] theorem completeStation_now (s : State) (k : StationId) (c : BitVec 4) (r : Result) : (s.completeStation k c r).now = s.now :=
  (congrArg State.now (completeStation_frame s k c r)).trans rfl
@[simp] theorem completeStation_pending (s : State) (k : StationId) (c : BitVec 4) (r : Result) : (s.completeStation k c r).pending = s.pending :=
  (congrArg State.pending (completeStation_frame s k c r)).trans rfl
@[simp] theorem completeStation_porst (s : State) (k : StationId) (c : BitVec 4) (r : Result) : (s.completeStation k c r).porst = s.porst :=
  (congrArg State.porst (completeStation_frame s k c r)).trans rfl
@[simp] theorem completeStation_busrst (s : State) (k : StationId) (c : BitVec 4) (r : Result) : (s.completeStation k c r).busrst = s.busrst :=
  (congrArg State.busrst (completeStation_frame s k c r)).trans rfl
@[simp] theorem completeStation_taking (s : State) (k : StationId) (c : BitVec 4) (r : Result) : (s.completeStation k c r).taking = s.taking :=
  (congrArg State.taking (completeStation_frame s k c r)).trans rfl
@[simp] theorem completeStation_boot (s : State) (k : StationId) (c : BitVec 4) (r : Result) : (s.completeStation k c r).boot = s.boot :=
  (congrArg State.boot (completeStation_frame s k c r)).trans rfl
@[simp] theorem completeStation_proc (s : State) (k : StationId) (c : BitVec 4) (r : Result) : (s.completeStation k c r).proc = s.proc :=
  (congrArg State.proc (completeStation_frame s k c r)).trans rfl
@[simp] theorem completeStation_cache (s : State) (k : StationId) (c : BitVec 4) (r : Result) : (s.completeStation k c r).cache = s.cache :=
  (congrArg State.cache (completeStation_frame s k c r)).trans rfl
@[simp] theorem completeStation_shadows (s : State) (k : StationId) (c : BitVec 4) (r : Result) : (s.completeStation k c r).shadows = s.shadows :=
  (congrArg State.shadows (completeStation_frame s k c r)).trans rfl
@[simp] theorem completeStation_job (s : State) (k : StationId) (c : BitVec 4) (r : Result) : (s.completeStation k c r).job = s.job :=
  (congrArg State.job (completeStation_frame s k c r)).trans rfl
@[simp] theorem completeStation_links (s : State) (k : StationId) (c : BitVec 4) (r : Result) : (s.completeStation k c r).links = s.links :=
  (congrArg State.links (completeStation_frame s k c r)).trans rfl
@[simp] theorem completeStation_breaks (s : State) (k : StationId) (c : BitVec 4) (r : Result) : (s.completeStation k c r).breaks = s.breaks :=
  (congrArg State.breaks (completeStation_frame s k c r)).trans rfl
@[simp] theorem completeStation_stop (s : State) (k : StationId) (c : BitVec 4) (r : Result) : (s.completeStation k c r).stop = s.stop :=
  (congrArg State.stop (completeStation_frame s k c r)).trans rfl
@[simp] theorem completeStation_gate (s : State) (k : StationId) (c : BitVec 4) (r : Result) : (s.completeStation k c r).gate = s.gate :=
  (congrArg State.gate (completeStation_frame s k c r)).trans rfl
@[simp] theorem completeStation_replay (s : State) (k : StationId) (c : BitVec 4) (r : Result) : (s.completeStation k c r).replay = s.replay :=
  (congrArg State.replay (completeStation_frame s k c r)).trans rfl
@[simp] theorem completeStation_port (s : State) (k : StationId) (c : BitVec 4) (r : Result) : (s.completeStation k c r).port = s.port :=
  (congrArg State.port (completeStation_frame s k c r)).trans rfl
@[simp] theorem completeStation_log (s : State) (k : StationId) (c : BitVec 4) (r : Result) : (s.completeStation k c r).log = s.log :=
  (congrArg State.log (completeStation_frame s k c r)).trans rfl

theorem completeJob_frame (s : State) (c : BitVec 4) (r : Result) :
    s.completeJob c r = { s with job := (s.completeJob c r).job, writer := (s.completeJob c r).writer } := rfl

@[simp] theorem completeJob_now (s : State) (c : BitVec 4) (r : Result) : (s.completeJob c r).now = s.now :=
  (congrArg State.now (completeJob_frame s c r)).trans rfl
@[simp] theorem completeJob_pending (s : State) (c : BitVec 4) (r : Result) : (s.completeJob c r).pending = s.pending :=
  (congrArg State.pending (completeJob_frame s c r)).trans rfl
@[simp] theorem completeJob_porst (s : State) (c : BitVec 4) (r : Result) : (s.completeJob c r).porst = s.porst :=
  (congrArg State.porst (completeJob_frame s c r)).trans rfl
@[simp] theorem completeJob_busrst (s : State) (c : BitVec 4) (r : Result) : (s.completeJob c r).busrst = s.busrst :=
  (congrArg State.busrst (completeJob_frame s c r)).trans rfl
@[simp] theorem completeJob_taking (s : State) (c : BitVec 4) (r : Result) : (s.completeJob c r).taking = s.taking :=
  (congrArg State.taking (completeJob_frame s c r)).trans rfl
@[simp] theorem completeJob_boot (s : State) (c : BitVec 4) (r : Result) : (s.completeJob c r).boot = s.boot :=
  (congrArg State.boot (completeJob_frame s c r)).trans rfl
@[simp] theorem completeJob_proc (s : State) (c : BitVec 4) (r : Result) : (s.completeJob c r).proc = s.proc :=
  (congrArg State.proc (completeJob_frame s c r)).trans rfl
@[simp] theorem completeJob_cache (s : State) (c : BitVec 4) (r : Result) : (s.completeJob c r).cache = s.cache :=
  (congrArg State.cache (completeJob_frame s c r)).trans rfl
@[simp] theorem completeJob_shadows (s : State) (c : BitVec 4) (r : Result) : (s.completeJob c r).shadows = s.shadows :=
  (congrArg State.shadows (completeJob_frame s c r)).trans rfl
@[simp] theorem completeJob_stations (s : State) (c : BitVec 4) (r : Result) : (s.completeJob c r).stations = s.stations :=
  (congrArg State.stations (completeJob_frame s c r)).trans rfl
@[simp] theorem completeJob_links (s : State) (c : BitVec 4) (r : Result) : (s.completeJob c r).links = s.links :=
  (congrArg State.links (completeJob_frame s c r)).trans rfl
@[simp] theorem completeJob_breaks (s : State) (c : BitVec 4) (r : Result) : (s.completeJob c r).breaks = s.breaks :=
  (congrArg State.breaks (completeJob_frame s c r)).trans rfl
@[simp] theorem completeJob_stop (s : State) (c : BitVec 4) (r : Result) : (s.completeJob c r).stop = s.stop :=
  (congrArg State.stop (completeJob_frame s c r)).trans rfl
@[simp] theorem completeJob_gate (s : State) (c : BitVec 4) (r : Result) : (s.completeJob c r).gate = s.gate :=
  (congrArg State.gate (completeJob_frame s c r)).trans rfl
@[simp] theorem completeJob_replay (s : State) (c : BitVec 4) (r : Result) : (s.completeJob c r).replay = s.replay :=
  (congrArg State.replay (completeJob_frame s c r)).trans rfl
@[simp] theorem completeJob_port (s : State) (c : BitVec 4) (r : Result) : (s.completeJob c r).port = s.port :=
  (congrArg State.port (completeJob_frame s c r)).trans rfl
@[simp] theorem completeJob_log (s : State) (c : BitVec 4) (r : Result) : (s.completeJob c r).log = s.log :=
  (congrArg State.log (completeJob_frame s c r)).trans rfl

theorem tellGate_frame (s : State) (k : StationId) :
    s.tellGate k = { s with gate := (s.tellGate k).gate } := by
  unfold State.tellGate; simp only []; split
  · rfl
  · split <;> rfl

@[simp] theorem tellGate_now (s : State) (k : StationId) : (s.tellGate k).now = s.now :=
  (congrArg State.now (tellGate_frame s k)).trans rfl
@[simp] theorem tellGate_pending (s : State) (k : StationId) : (s.tellGate k).pending = s.pending :=
  (congrArg State.pending (tellGate_frame s k)).trans rfl
@[simp] theorem tellGate_porst (s : State) (k : StationId) : (s.tellGate k).porst = s.porst :=
  (congrArg State.porst (tellGate_frame s k)).trans rfl
@[simp] theorem tellGate_busrst (s : State) (k : StationId) : (s.tellGate k).busrst = s.busrst :=
  (congrArg State.busrst (tellGate_frame s k)).trans rfl
@[simp] theorem tellGate_taking (s : State) (k : StationId) : (s.tellGate k).taking = s.taking :=
  (congrArg State.taking (tellGate_frame s k)).trans rfl
@[simp] theorem tellGate_boot (s : State) (k : StationId) : (s.tellGate k).boot = s.boot :=
  (congrArg State.boot (tellGate_frame s k)).trans rfl
@[simp] theorem tellGate_proc (s : State) (k : StationId) : (s.tellGate k).proc = s.proc :=
  (congrArg State.proc (tellGate_frame s k)).trans rfl
@[simp] theorem tellGate_cache (s : State) (k : StationId) : (s.tellGate k).cache = s.cache :=
  (congrArg State.cache (tellGate_frame s k)).trans rfl
@[simp] theorem tellGate_shadows (s : State) (k : StationId) : (s.tellGate k).shadows = s.shadows :=
  (congrArg State.shadows (tellGate_frame s k)).trans rfl
@[simp] theorem tellGate_job (s : State) (k : StationId) : (s.tellGate k).job = s.job :=
  (congrArg State.job (tellGate_frame s k)).trans rfl
@[simp] theorem tellGate_stations (s : State) (k : StationId) : (s.tellGate k).stations = s.stations :=
  (congrArg State.stations (tellGate_frame s k)).trans rfl
@[simp] theorem tellGate_links (s : State) (k : StationId) : (s.tellGate k).links = s.links :=
  (congrArg State.links (tellGate_frame s k)).trans rfl
@[simp] theorem tellGate_breaks (s : State) (k : StationId) : (s.tellGate k).breaks = s.breaks :=
  (congrArg State.breaks (tellGate_frame s k)).trans rfl
@[simp] theorem tellGate_stop (s : State) (k : StationId) : (s.tellGate k).stop = s.stop :=
  (congrArg State.stop (tellGate_frame s k)).trans rfl
@[simp] theorem tellGate_replay (s : State) (k : StationId) : (s.tellGate k).replay = s.replay :=
  (congrArg State.replay (tellGate_frame s k)).trans rfl
@[simp] theorem tellGate_port (s : State) (k : StationId) : (s.tellGate k).port = s.port :=
  (congrArg State.port (tellGate_frame s k)).trans rfl
@[simp] theorem tellGate_writer (s : State) (k : StationId) : (s.tellGate k).writer = s.writer :=
  (congrArg State.writer (tellGate_frame s k)).trans rfl
@[simp] theorem tellGate_log (s : State) (k : StationId) : (s.tellGate k).log = s.log :=
  (congrArg State.log (tellGate_frame s k)).trans rfl

theorem enterDrive_frame (s : State) (k : StationId) (d : Drive) (h : Option Byte) :
    s.enterDrive k d h = { s with stations := (s.enterDrive k d h).stations, links := (s.enterDrive k d h).links, gate := (s.enterDrive k d h).gate } := by
  unfold State.enterDrive; simp only []; rw [tellGate_frame]; rfl

@[simp] theorem enterDrive_now (s : State) (k : StationId) (d : Drive) (h : Option Byte) : (s.enterDrive k d h).now = s.now :=
  (congrArg State.now (enterDrive_frame s k d h)).trans rfl
@[simp] theorem enterDrive_pending (s : State) (k : StationId) (d : Drive) (h : Option Byte) : (s.enterDrive k d h).pending = s.pending :=
  (congrArg State.pending (enterDrive_frame s k d h)).trans rfl
@[simp] theorem enterDrive_porst (s : State) (k : StationId) (d : Drive) (h : Option Byte) : (s.enterDrive k d h).porst = s.porst :=
  (congrArg State.porst (enterDrive_frame s k d h)).trans rfl
@[simp] theorem enterDrive_busrst (s : State) (k : StationId) (d : Drive) (h : Option Byte) : (s.enterDrive k d h).busrst = s.busrst :=
  (congrArg State.busrst (enterDrive_frame s k d h)).trans rfl
@[simp] theorem enterDrive_taking (s : State) (k : StationId) (d : Drive) (h : Option Byte) : (s.enterDrive k d h).taking = s.taking :=
  (congrArg State.taking (enterDrive_frame s k d h)).trans rfl
@[simp] theorem enterDrive_boot (s : State) (k : StationId) (d : Drive) (h : Option Byte) : (s.enterDrive k d h).boot = s.boot :=
  (congrArg State.boot (enterDrive_frame s k d h)).trans rfl
@[simp] theorem enterDrive_proc (s : State) (k : StationId) (d : Drive) (h : Option Byte) : (s.enterDrive k d h).proc = s.proc :=
  (congrArg State.proc (enterDrive_frame s k d h)).trans rfl
@[simp] theorem enterDrive_cache (s : State) (k : StationId) (d : Drive) (h : Option Byte) : (s.enterDrive k d h).cache = s.cache :=
  (congrArg State.cache (enterDrive_frame s k d h)).trans rfl
@[simp] theorem enterDrive_shadows (s : State) (k : StationId) (d : Drive) (h : Option Byte) : (s.enterDrive k d h).shadows = s.shadows :=
  (congrArg State.shadows (enterDrive_frame s k d h)).trans rfl
@[simp] theorem enterDrive_job (s : State) (k : StationId) (d : Drive) (h : Option Byte) : (s.enterDrive k d h).job = s.job :=
  (congrArg State.job (enterDrive_frame s k d h)).trans rfl
@[simp] theorem enterDrive_breaks (s : State) (k : StationId) (d : Drive) (h : Option Byte) : (s.enterDrive k d h).breaks = s.breaks :=
  (congrArg State.breaks (enterDrive_frame s k d h)).trans rfl
@[simp] theorem enterDrive_stop (s : State) (k : StationId) (d : Drive) (h : Option Byte) : (s.enterDrive k d h).stop = s.stop :=
  (congrArg State.stop (enterDrive_frame s k d h)).trans rfl
@[simp] theorem enterDrive_replay (s : State) (k : StationId) (d : Drive) (h : Option Byte) : (s.enterDrive k d h).replay = s.replay :=
  (congrArg State.replay (enterDrive_frame s k d h)).trans rfl
@[simp] theorem enterDrive_port (s : State) (k : StationId) (d : Drive) (h : Option Byte) : (s.enterDrive k d h).port = s.port :=
  (congrArg State.port (enterDrive_frame s k d h)).trans rfl
@[simp] theorem enterDrive_writer (s : State) (k : StationId) (d : Drive) (h : Option Byte) : (s.enterDrive k d h).writer = s.writer :=
  (congrArg State.writer (enterDrive_frame s k d h)).trans rfl
@[simp] theorem enterDrive_log (s : State) (k : StationId) (d : Drive) (h : Option Byte) : (s.enterDrive k d h).log = s.log :=
  (congrArg State.log (enterDrive_frame s k d h)).trans rfl

theorem requestHeld_frame (s : State) (k : StationId) (r : HoldReason) :
    s.requestHeld k r = { s with stations := (s.requestHeld k r).stations, links := (s.requestHeld k r).links, gate := (s.requestHeld k r).gate, writer := (s.requestHeld k r).writer } := by
  unfold State.requestHeld; split
  · simp only []; split
    · rw [oweEvent_frame, enterDrive_frame]
    · rw [enterDrive_frame]
  all_goals rfl

@[simp] theorem requestHeld_now (s : State) (k : StationId) (r : HoldReason) : (s.requestHeld k r).now = s.now :=
  (congrArg State.now (requestHeld_frame s k r)).trans rfl
@[simp] theorem requestHeld_pending (s : State) (k : StationId) (r : HoldReason) : (s.requestHeld k r).pending = s.pending :=
  (congrArg State.pending (requestHeld_frame s k r)).trans rfl
@[simp] theorem requestHeld_porst (s : State) (k : StationId) (r : HoldReason) : (s.requestHeld k r).porst = s.porst :=
  (congrArg State.porst (requestHeld_frame s k r)).trans rfl
@[simp] theorem requestHeld_busrst (s : State) (k : StationId) (r : HoldReason) : (s.requestHeld k r).busrst = s.busrst :=
  (congrArg State.busrst (requestHeld_frame s k r)).trans rfl
@[simp] theorem requestHeld_taking (s : State) (k : StationId) (r : HoldReason) : (s.requestHeld k r).taking = s.taking :=
  (congrArg State.taking (requestHeld_frame s k r)).trans rfl
@[simp] theorem requestHeld_boot (s : State) (k : StationId) (r : HoldReason) : (s.requestHeld k r).boot = s.boot :=
  (congrArg State.boot (requestHeld_frame s k r)).trans rfl
@[simp] theorem requestHeld_proc (s : State) (k : StationId) (r : HoldReason) : (s.requestHeld k r).proc = s.proc :=
  (congrArg State.proc (requestHeld_frame s k r)).trans rfl
@[simp] theorem requestHeld_cache (s : State) (k : StationId) (r : HoldReason) : (s.requestHeld k r).cache = s.cache :=
  (congrArg State.cache (requestHeld_frame s k r)).trans rfl
@[simp] theorem requestHeld_shadows (s : State) (k : StationId) (r : HoldReason) : (s.requestHeld k r).shadows = s.shadows :=
  (congrArg State.shadows (requestHeld_frame s k r)).trans rfl
@[simp] theorem requestHeld_job (s : State) (k : StationId) (r : HoldReason) : (s.requestHeld k r).job = s.job :=
  (congrArg State.job (requestHeld_frame s k r)).trans rfl
@[simp] theorem requestHeld_breaks (s : State) (k : StationId) (r : HoldReason) : (s.requestHeld k r).breaks = s.breaks :=
  (congrArg State.breaks (requestHeld_frame s k r)).trans rfl
@[simp] theorem requestHeld_stop (s : State) (k : StationId) (r : HoldReason) : (s.requestHeld k r).stop = s.stop :=
  (congrArg State.stop (requestHeld_frame s k r)).trans rfl
@[simp] theorem requestHeld_replay (s : State) (k : StationId) (r : HoldReason) : (s.requestHeld k r).replay = s.replay :=
  (congrArg State.replay (requestHeld_frame s k r)).trans rfl
@[simp] theorem requestHeld_port (s : State) (k : StationId) (r : HoldReason) : (s.requestHeld k r).port = s.port :=
  (congrArg State.port (requestHeld_frame s k r)).trans rfl
@[simp] theorem requestHeld_log (s : State) (k : StationId) (r : HoldReason) : (s.requestHeld k r).log = s.log :=
  (congrArg State.log (requestHeld_frame s k r)).trans rfl

theorem requestFault_frame (s : State) (k : StationId) (c : FaultCode) :
    s.requestFault k c = { s with stations := (s.requestFault k c).stations, links := (s.requestFault k c).links, gate := (s.requestFault k c).gate, writer := (s.requestFault k c).writer } := by
  unfold State.requestFault; split
  · rw [oweEvent_frame, enterDrive_frame]
  · rw [oweEvent_frame, enterDrive_frame]
  all_goals rfl

@[simp] theorem requestFault_now (s : State) (k : StationId) (c : FaultCode) : (s.requestFault k c).now = s.now :=
  (congrArg State.now (requestFault_frame s k c)).trans rfl
@[simp] theorem requestFault_pending (s : State) (k : StationId) (c : FaultCode) : (s.requestFault k c).pending = s.pending :=
  (congrArg State.pending (requestFault_frame s k c)).trans rfl
@[simp] theorem requestFault_porst (s : State) (k : StationId) (c : FaultCode) : (s.requestFault k c).porst = s.porst :=
  (congrArg State.porst (requestFault_frame s k c)).trans rfl
@[simp] theorem requestFault_busrst (s : State) (k : StationId) (c : FaultCode) : (s.requestFault k c).busrst = s.busrst :=
  (congrArg State.busrst (requestFault_frame s k c)).trans rfl
@[simp] theorem requestFault_taking (s : State) (k : StationId) (c : FaultCode) : (s.requestFault k c).taking = s.taking :=
  (congrArg State.taking (requestFault_frame s k c)).trans rfl
@[simp] theorem requestFault_boot (s : State) (k : StationId) (c : FaultCode) : (s.requestFault k c).boot = s.boot :=
  (congrArg State.boot (requestFault_frame s k c)).trans rfl
@[simp] theorem requestFault_proc (s : State) (k : StationId) (c : FaultCode) : (s.requestFault k c).proc = s.proc :=
  (congrArg State.proc (requestFault_frame s k c)).trans rfl
@[simp] theorem requestFault_cache (s : State) (k : StationId) (c : FaultCode) : (s.requestFault k c).cache = s.cache :=
  (congrArg State.cache (requestFault_frame s k c)).trans rfl
@[simp] theorem requestFault_shadows (s : State) (k : StationId) (c : FaultCode) : (s.requestFault k c).shadows = s.shadows :=
  (congrArg State.shadows (requestFault_frame s k c)).trans rfl
@[simp] theorem requestFault_job (s : State) (k : StationId) (c : FaultCode) : (s.requestFault k c).job = s.job :=
  (congrArg State.job (requestFault_frame s k c)).trans rfl
@[simp] theorem requestFault_breaks (s : State) (k : StationId) (c : FaultCode) : (s.requestFault k c).breaks = s.breaks :=
  (congrArg State.breaks (requestFault_frame s k c)).trans rfl
@[simp] theorem requestFault_stop (s : State) (k : StationId) (c : FaultCode) : (s.requestFault k c).stop = s.stop :=
  (congrArg State.stop (requestFault_frame s k c)).trans rfl
@[simp] theorem requestFault_replay (s : State) (k : StationId) (c : FaultCode) : (s.requestFault k c).replay = s.replay :=
  (congrArg State.replay (requestFault_frame s k c)).trans rfl
@[simp] theorem requestFault_port (s : State) (k : StationId) (c : FaultCode) : (s.requestFault k c).port = s.port :=
  (congrArg State.port (requestFault_frame s k c)).trans rfl
@[simp] theorem requestFault_log (s : State) (k : StationId) (c : FaultCode) : (s.requestFault k c).log = s.log :=
  (congrArg State.log (requestFault_frame s k c)).trans rfl

theorem overtake_frame (s : State) (k : StationId) :
    s.overtake k = { s with replay := (s.overtake k).replay } := by
  unfold State.overtake; split
  · split
    · split <;> rfl
    · rfl
  · rfl

@[simp] theorem overtake_now (s : State) (k : StationId) : (s.overtake k).now = s.now :=
  (congrArg State.now (overtake_frame s k)).trans rfl
@[simp] theorem overtake_pending (s : State) (k : StationId) : (s.overtake k).pending = s.pending :=
  (congrArg State.pending (overtake_frame s k)).trans rfl
@[simp] theorem overtake_porst (s : State) (k : StationId) : (s.overtake k).porst = s.porst :=
  (congrArg State.porst (overtake_frame s k)).trans rfl
@[simp] theorem overtake_busrst (s : State) (k : StationId) : (s.overtake k).busrst = s.busrst :=
  (congrArg State.busrst (overtake_frame s k)).trans rfl
@[simp] theorem overtake_taking (s : State) (k : StationId) : (s.overtake k).taking = s.taking :=
  (congrArg State.taking (overtake_frame s k)).trans rfl
@[simp] theorem overtake_boot (s : State) (k : StationId) : (s.overtake k).boot = s.boot :=
  (congrArg State.boot (overtake_frame s k)).trans rfl
@[simp] theorem overtake_proc (s : State) (k : StationId) : (s.overtake k).proc = s.proc :=
  (congrArg State.proc (overtake_frame s k)).trans rfl
@[simp] theorem overtake_cache (s : State) (k : StationId) : (s.overtake k).cache = s.cache :=
  (congrArg State.cache (overtake_frame s k)).trans rfl
@[simp] theorem overtake_shadows (s : State) (k : StationId) : (s.overtake k).shadows = s.shadows :=
  (congrArg State.shadows (overtake_frame s k)).trans rfl
@[simp] theorem overtake_job (s : State) (k : StationId) : (s.overtake k).job = s.job :=
  (congrArg State.job (overtake_frame s k)).trans rfl
@[simp] theorem overtake_stations (s : State) (k : StationId) : (s.overtake k).stations = s.stations :=
  (congrArg State.stations (overtake_frame s k)).trans rfl
@[simp] theorem overtake_links (s : State) (k : StationId) : (s.overtake k).links = s.links :=
  (congrArg State.links (overtake_frame s k)).trans rfl
@[simp] theorem overtake_breaks (s : State) (k : StationId) : (s.overtake k).breaks = s.breaks :=
  (congrArg State.breaks (overtake_frame s k)).trans rfl
@[simp] theorem overtake_stop (s : State) (k : StationId) : (s.overtake k).stop = s.stop :=
  (congrArg State.stop (overtake_frame s k)).trans rfl
@[simp] theorem overtake_gate (s : State) (k : StationId) : (s.overtake k).gate = s.gate :=
  (congrArg State.gate (overtake_frame s k)).trans rfl
@[simp] theorem overtake_port (s : State) (k : StationId) : (s.overtake k).port = s.port :=
  (congrArg State.port (overtake_frame s k)).trans rfl
@[simp] theorem overtake_writer (s : State) (k : StationId) : (s.overtake k).writer = s.writer :=
  (congrArg State.writer (overtake_frame s k)).trans rfl
@[simp] theorem overtake_log (s : State) (k : StationId) : (s.overtake k).log = s.log :=
  (congrArg State.log (overtake_frame s k)).trans rfl

theorem loseFeed_frame (s : State) (k : StationId) (r : LossReason) :
    s.loseFeed k r = { s with stations := (s.loseFeed k r).stations, gate := (s.loseFeed k r).gate, replay := (s.loseFeed k r).replay, writer := (s.loseFeed k r).writer } := by
  unfold State.loseFeed; split
  · rw [oweEvent_frame, tellGate_frame]; rfl
  · rw [oweEvent_frame, tellGate_frame, overtake_frame]; rfl
  all_goals rfl

@[simp] theorem loseFeed_now (s : State) (k : StationId) (r : LossReason) : (s.loseFeed k r).now = s.now :=
  (congrArg State.now (loseFeed_frame s k r)).trans rfl
@[simp] theorem loseFeed_pending (s : State) (k : StationId) (r : LossReason) : (s.loseFeed k r).pending = s.pending :=
  (congrArg State.pending (loseFeed_frame s k r)).trans rfl
@[simp] theorem loseFeed_porst (s : State) (k : StationId) (r : LossReason) : (s.loseFeed k r).porst = s.porst :=
  (congrArg State.porst (loseFeed_frame s k r)).trans rfl
@[simp] theorem loseFeed_busrst (s : State) (k : StationId) (r : LossReason) : (s.loseFeed k r).busrst = s.busrst :=
  (congrArg State.busrst (loseFeed_frame s k r)).trans rfl
@[simp] theorem loseFeed_taking (s : State) (k : StationId) (r : LossReason) : (s.loseFeed k r).taking = s.taking :=
  (congrArg State.taking (loseFeed_frame s k r)).trans rfl
@[simp] theorem loseFeed_boot (s : State) (k : StationId) (r : LossReason) : (s.loseFeed k r).boot = s.boot :=
  (congrArg State.boot (loseFeed_frame s k r)).trans rfl
@[simp] theorem loseFeed_proc (s : State) (k : StationId) (r : LossReason) : (s.loseFeed k r).proc = s.proc :=
  (congrArg State.proc (loseFeed_frame s k r)).trans rfl
@[simp] theorem loseFeed_cache (s : State) (k : StationId) (r : LossReason) : (s.loseFeed k r).cache = s.cache :=
  (congrArg State.cache (loseFeed_frame s k r)).trans rfl
@[simp] theorem loseFeed_shadows (s : State) (k : StationId) (r : LossReason) : (s.loseFeed k r).shadows = s.shadows :=
  (congrArg State.shadows (loseFeed_frame s k r)).trans rfl
@[simp] theorem loseFeed_job (s : State) (k : StationId) (r : LossReason) : (s.loseFeed k r).job = s.job :=
  (congrArg State.job (loseFeed_frame s k r)).trans rfl
@[simp] theorem loseFeed_links (s : State) (k : StationId) (r : LossReason) : (s.loseFeed k r).links = s.links :=
  (congrArg State.links (loseFeed_frame s k r)).trans rfl
@[simp] theorem loseFeed_breaks (s : State) (k : StationId) (r : LossReason) : (s.loseFeed k r).breaks = s.breaks :=
  (congrArg State.breaks (loseFeed_frame s k r)).trans rfl
@[simp] theorem loseFeed_stop (s : State) (k : StationId) (r : LossReason) : (s.loseFeed k r).stop = s.stop :=
  (congrArg State.stop (loseFeed_frame s k r)).trans rfl
@[simp] theorem loseFeed_port (s : State) (k : StationId) (r : LossReason) : (s.loseFeed k r).port = s.port :=
  (congrArg State.port (loseFeed_frame s k r)).trans rfl
@[simp] theorem loseFeed_log (s : State) (k : StationId) (r : LossReason) : (s.loseFeed k r).log = s.log :=
  (congrArg State.log (loseFeed_frame s k r)).trans rfl

theorem detachFeed_frame (s : State) (k : StationId) :
    s.detachFeed k = { s with stations := (s.detachFeed k).stations, gate := (s.detachFeed k).gate, replay := (s.detachFeed k).replay, writer := (s.detachFeed k).writer } := by
  unfold State.detachFeed; split
  · rw [oweEvent_frame, tellGate_frame]; rfl
  · rw [oweEvent_frame, tellGate_frame, overtake_frame]; rfl
  all_goals rfl

@[simp] theorem detachFeed_now (s : State) (k : StationId) : (s.detachFeed k).now = s.now :=
  (congrArg State.now (detachFeed_frame s k)).trans rfl
@[simp] theorem detachFeed_pending (s : State) (k : StationId) : (s.detachFeed k).pending = s.pending :=
  (congrArg State.pending (detachFeed_frame s k)).trans rfl
@[simp] theorem detachFeed_porst (s : State) (k : StationId) : (s.detachFeed k).porst = s.porst :=
  (congrArg State.porst (detachFeed_frame s k)).trans rfl
@[simp] theorem detachFeed_busrst (s : State) (k : StationId) : (s.detachFeed k).busrst = s.busrst :=
  (congrArg State.busrst (detachFeed_frame s k)).trans rfl
@[simp] theorem detachFeed_taking (s : State) (k : StationId) : (s.detachFeed k).taking = s.taking :=
  (congrArg State.taking (detachFeed_frame s k)).trans rfl
@[simp] theorem detachFeed_boot (s : State) (k : StationId) : (s.detachFeed k).boot = s.boot :=
  (congrArg State.boot (detachFeed_frame s k)).trans rfl
@[simp] theorem detachFeed_proc (s : State) (k : StationId) : (s.detachFeed k).proc = s.proc :=
  (congrArg State.proc (detachFeed_frame s k)).trans rfl
@[simp] theorem detachFeed_cache (s : State) (k : StationId) : (s.detachFeed k).cache = s.cache :=
  (congrArg State.cache (detachFeed_frame s k)).trans rfl
@[simp] theorem detachFeed_shadows (s : State) (k : StationId) : (s.detachFeed k).shadows = s.shadows :=
  (congrArg State.shadows (detachFeed_frame s k)).trans rfl
@[simp] theorem detachFeed_job (s : State) (k : StationId) : (s.detachFeed k).job = s.job :=
  (congrArg State.job (detachFeed_frame s k)).trans rfl
@[simp] theorem detachFeed_links (s : State) (k : StationId) : (s.detachFeed k).links = s.links :=
  (congrArg State.links (detachFeed_frame s k)).trans rfl
@[simp] theorem detachFeed_breaks (s : State) (k : StationId) : (s.detachFeed k).breaks = s.breaks :=
  (congrArg State.breaks (detachFeed_frame s k)).trans rfl
@[simp] theorem detachFeed_stop (s : State) (k : StationId) : (s.detachFeed k).stop = s.stop :=
  (congrArg State.stop (detachFeed_frame s k)).trans rfl
@[simp] theorem detachFeed_port (s : State) (k : StationId) : (s.detachFeed k).port = s.port :=
  (congrArg State.port (detachFeed_frame s k)).trans rfl
@[simp] theorem detachFeed_log (s : State) (k : StationId) : (s.detachFeed k).log = s.log :=
  (congrArg State.log (detachFeed_frame s k)).trans rfl

theorem joinLive_frame (s : State) (k : StationId) :
    s.joinLive k = { s with stations := (s.joinLive k).stations, writer := (s.joinLive k).writer } := by
  unfold State.joinLive; split <;> rfl

@[simp] theorem joinLive_now (s : State) (k : StationId) : (s.joinLive k).now = s.now :=
  (congrArg State.now (joinLive_frame s k)).trans rfl
@[simp] theorem joinLive_pending (s : State) (k : StationId) : (s.joinLive k).pending = s.pending :=
  (congrArg State.pending (joinLive_frame s k)).trans rfl
@[simp] theorem joinLive_porst (s : State) (k : StationId) : (s.joinLive k).porst = s.porst :=
  (congrArg State.porst (joinLive_frame s k)).trans rfl
@[simp] theorem joinLive_busrst (s : State) (k : StationId) : (s.joinLive k).busrst = s.busrst :=
  (congrArg State.busrst (joinLive_frame s k)).trans rfl
@[simp] theorem joinLive_taking (s : State) (k : StationId) : (s.joinLive k).taking = s.taking :=
  (congrArg State.taking (joinLive_frame s k)).trans rfl
@[simp] theorem joinLive_boot (s : State) (k : StationId) : (s.joinLive k).boot = s.boot :=
  (congrArg State.boot (joinLive_frame s k)).trans rfl
@[simp] theorem joinLive_proc (s : State) (k : StationId) : (s.joinLive k).proc = s.proc :=
  (congrArg State.proc (joinLive_frame s k)).trans rfl
@[simp] theorem joinLive_cache (s : State) (k : StationId) : (s.joinLive k).cache = s.cache :=
  (congrArg State.cache (joinLive_frame s k)).trans rfl
@[simp] theorem joinLive_shadows (s : State) (k : StationId) : (s.joinLive k).shadows = s.shadows :=
  (congrArg State.shadows (joinLive_frame s k)).trans rfl
@[simp] theorem joinLive_job (s : State) (k : StationId) : (s.joinLive k).job = s.job :=
  (congrArg State.job (joinLive_frame s k)).trans rfl
@[simp] theorem joinLive_links (s : State) (k : StationId) : (s.joinLive k).links = s.links :=
  (congrArg State.links (joinLive_frame s k)).trans rfl
@[simp] theorem joinLive_breaks (s : State) (k : StationId) : (s.joinLive k).breaks = s.breaks :=
  (congrArg State.breaks (joinLive_frame s k)).trans rfl
@[simp] theorem joinLive_stop (s : State) (k : StationId) : (s.joinLive k).stop = s.stop :=
  (congrArg State.stop (joinLive_frame s k)).trans rfl
@[simp] theorem joinLive_gate (s : State) (k : StationId) : (s.joinLive k).gate = s.gate :=
  (congrArg State.gate (joinLive_frame s k)).trans rfl
@[simp] theorem joinLive_replay (s : State) (k : StationId) : (s.joinLive k).replay = s.replay :=
  (congrArg State.replay (joinLive_frame s k)).trans rfl
@[simp] theorem joinLive_port (s : State) (k : StationId) : (s.joinLive k).port = s.port :=
  (congrArg State.port (joinLive_frame s k)).trans rfl
@[simp] theorem joinLive_log (s : State) (k : StationId) : (s.joinLive k).log = s.log :=
  (congrArg State.log (joinLive_frame s k)).trans rfl

theorem weighDrain_frame (s : State) (k : StationId) :
    s.weighDrain k = { s with links := (s.weighDrain k).links } := by
  unfold State.weighDrain; split <;> rfl

@[simp] theorem weighDrain_now (s : State) (k : StationId) : (s.weighDrain k).now = s.now :=
  (congrArg State.now (weighDrain_frame s k)).trans rfl
@[simp] theorem weighDrain_pending (s : State) (k : StationId) : (s.weighDrain k).pending = s.pending :=
  (congrArg State.pending (weighDrain_frame s k)).trans rfl
@[simp] theorem weighDrain_porst (s : State) (k : StationId) : (s.weighDrain k).porst = s.porst :=
  (congrArg State.porst (weighDrain_frame s k)).trans rfl
@[simp] theorem weighDrain_busrst (s : State) (k : StationId) : (s.weighDrain k).busrst = s.busrst :=
  (congrArg State.busrst (weighDrain_frame s k)).trans rfl
@[simp] theorem weighDrain_taking (s : State) (k : StationId) : (s.weighDrain k).taking = s.taking :=
  (congrArg State.taking (weighDrain_frame s k)).trans rfl
@[simp] theorem weighDrain_boot (s : State) (k : StationId) : (s.weighDrain k).boot = s.boot :=
  (congrArg State.boot (weighDrain_frame s k)).trans rfl
@[simp] theorem weighDrain_proc (s : State) (k : StationId) : (s.weighDrain k).proc = s.proc :=
  (congrArg State.proc (weighDrain_frame s k)).trans rfl
@[simp] theorem weighDrain_cache (s : State) (k : StationId) : (s.weighDrain k).cache = s.cache :=
  (congrArg State.cache (weighDrain_frame s k)).trans rfl
@[simp] theorem weighDrain_shadows (s : State) (k : StationId) : (s.weighDrain k).shadows = s.shadows :=
  (congrArg State.shadows (weighDrain_frame s k)).trans rfl
@[simp] theorem weighDrain_job (s : State) (k : StationId) : (s.weighDrain k).job = s.job :=
  (congrArg State.job (weighDrain_frame s k)).trans rfl
@[simp] theorem weighDrain_stations (s : State) (k : StationId) : (s.weighDrain k).stations = s.stations :=
  (congrArg State.stations (weighDrain_frame s k)).trans rfl
@[simp] theorem weighDrain_breaks (s : State) (k : StationId) : (s.weighDrain k).breaks = s.breaks :=
  (congrArg State.breaks (weighDrain_frame s k)).trans rfl
@[simp] theorem weighDrain_stop (s : State) (k : StationId) : (s.weighDrain k).stop = s.stop :=
  (congrArg State.stop (weighDrain_frame s k)).trans rfl
@[simp] theorem weighDrain_gate (s : State) (k : StationId) : (s.weighDrain k).gate = s.gate :=
  (congrArg State.gate (weighDrain_frame s k)).trans rfl
@[simp] theorem weighDrain_replay (s : State) (k : StationId) : (s.weighDrain k).replay = s.replay :=
  (congrArg State.replay (weighDrain_frame s k)).trans rfl
@[simp] theorem weighDrain_port (s : State) (k : StationId) : (s.weighDrain k).port = s.port :=
  (congrArg State.port (weighDrain_frame s k)).trans rfl
@[simp] theorem weighDrain_writer (s : State) (k : StationId) : (s.weighDrain k).writer = s.writer :=
  (congrArg State.writer (weighDrain_frame s k)).trans rfl
@[simp] theorem weighDrain_log (s : State) (k : StationId) : (s.weighDrain k).log = s.log :=
  (congrArg State.log (weighDrain_frame s k)).trans rfl

theorem countLinkError_frame (s : State) (k : StationId) :
    s.countLinkError k = { s with stations := (s.countLinkError k).stations } := rfl

@[simp] theorem countLinkError_now (s : State) (k : StationId) : (s.countLinkError k).now = s.now :=
  (congrArg State.now (countLinkError_frame s k)).trans rfl
@[simp] theorem countLinkError_pending (s : State) (k : StationId) : (s.countLinkError k).pending = s.pending :=
  (congrArg State.pending (countLinkError_frame s k)).trans rfl
@[simp] theorem countLinkError_porst (s : State) (k : StationId) : (s.countLinkError k).porst = s.porst :=
  (congrArg State.porst (countLinkError_frame s k)).trans rfl
@[simp] theorem countLinkError_busrst (s : State) (k : StationId) : (s.countLinkError k).busrst = s.busrst :=
  (congrArg State.busrst (countLinkError_frame s k)).trans rfl
@[simp] theorem countLinkError_taking (s : State) (k : StationId) : (s.countLinkError k).taking = s.taking :=
  (congrArg State.taking (countLinkError_frame s k)).trans rfl
@[simp] theorem countLinkError_boot (s : State) (k : StationId) : (s.countLinkError k).boot = s.boot :=
  (congrArg State.boot (countLinkError_frame s k)).trans rfl
@[simp] theorem countLinkError_proc (s : State) (k : StationId) : (s.countLinkError k).proc = s.proc :=
  (congrArg State.proc (countLinkError_frame s k)).trans rfl
@[simp] theorem countLinkError_cache (s : State) (k : StationId) : (s.countLinkError k).cache = s.cache :=
  (congrArg State.cache (countLinkError_frame s k)).trans rfl
@[simp] theorem countLinkError_shadows (s : State) (k : StationId) : (s.countLinkError k).shadows = s.shadows :=
  (congrArg State.shadows (countLinkError_frame s k)).trans rfl
@[simp] theorem countLinkError_job (s : State) (k : StationId) : (s.countLinkError k).job = s.job :=
  (congrArg State.job (countLinkError_frame s k)).trans rfl
@[simp] theorem countLinkError_links (s : State) (k : StationId) : (s.countLinkError k).links = s.links :=
  (congrArg State.links (countLinkError_frame s k)).trans rfl
@[simp] theorem countLinkError_breaks (s : State) (k : StationId) : (s.countLinkError k).breaks = s.breaks :=
  (congrArg State.breaks (countLinkError_frame s k)).trans rfl
@[simp] theorem countLinkError_stop (s : State) (k : StationId) : (s.countLinkError k).stop = s.stop :=
  (congrArg State.stop (countLinkError_frame s k)).trans rfl
@[simp] theorem countLinkError_gate (s : State) (k : StationId) : (s.countLinkError k).gate = s.gate :=
  (congrArg State.gate (countLinkError_frame s k)).trans rfl
@[simp] theorem countLinkError_replay (s : State) (k : StationId) : (s.countLinkError k).replay = s.replay :=
  (congrArg State.replay (countLinkError_frame s k)).trans rfl
@[simp] theorem countLinkError_port (s : State) (k : StationId) : (s.countLinkError k).port = s.port :=
  (congrArg State.port (countLinkError_frame s k)).trans rfl
@[simp] theorem countLinkError_writer (s : State) (k : StationId) : (s.countLinkError k).writer = s.writer :=
  (congrArg State.writer (countLinkError_frame s k)).trans rfl
@[simp] theorem countLinkError_log (s : State) (k : StationId) : (s.countLinkError k).log = s.log :=
  (congrArg State.log (countLinkError_frame s k)).trans rfl

theorem countOverrun_frame (s : State) (k : StationId) :
    s.countOverrun k = { s with stations := (s.countOverrun k).stations } := rfl

@[simp] theorem countOverrun_now (s : State) (k : StationId) : (s.countOverrun k).now = s.now :=
  (congrArg State.now (countOverrun_frame s k)).trans rfl
@[simp] theorem countOverrun_pending (s : State) (k : StationId) : (s.countOverrun k).pending = s.pending :=
  (congrArg State.pending (countOverrun_frame s k)).trans rfl
@[simp] theorem countOverrun_porst (s : State) (k : StationId) : (s.countOverrun k).porst = s.porst :=
  (congrArg State.porst (countOverrun_frame s k)).trans rfl
@[simp] theorem countOverrun_busrst (s : State) (k : StationId) : (s.countOverrun k).busrst = s.busrst :=
  (congrArg State.busrst (countOverrun_frame s k)).trans rfl
@[simp] theorem countOverrun_taking (s : State) (k : StationId) : (s.countOverrun k).taking = s.taking :=
  (congrArg State.taking (countOverrun_frame s k)).trans rfl
@[simp] theorem countOverrun_boot (s : State) (k : StationId) : (s.countOverrun k).boot = s.boot :=
  (congrArg State.boot (countOverrun_frame s k)).trans rfl
@[simp] theorem countOverrun_proc (s : State) (k : StationId) : (s.countOverrun k).proc = s.proc :=
  (congrArg State.proc (countOverrun_frame s k)).trans rfl
@[simp] theorem countOverrun_cache (s : State) (k : StationId) : (s.countOverrun k).cache = s.cache :=
  (congrArg State.cache (countOverrun_frame s k)).trans rfl
@[simp] theorem countOverrun_shadows (s : State) (k : StationId) : (s.countOverrun k).shadows = s.shadows :=
  (congrArg State.shadows (countOverrun_frame s k)).trans rfl
@[simp] theorem countOverrun_job (s : State) (k : StationId) : (s.countOverrun k).job = s.job :=
  (congrArg State.job (countOverrun_frame s k)).trans rfl
@[simp] theorem countOverrun_links (s : State) (k : StationId) : (s.countOverrun k).links = s.links :=
  (congrArg State.links (countOverrun_frame s k)).trans rfl
@[simp] theorem countOverrun_breaks (s : State) (k : StationId) : (s.countOverrun k).breaks = s.breaks :=
  (congrArg State.breaks (countOverrun_frame s k)).trans rfl
@[simp] theorem countOverrun_stop (s : State) (k : StationId) : (s.countOverrun k).stop = s.stop :=
  (congrArg State.stop (countOverrun_frame s k)).trans rfl
@[simp] theorem countOverrun_gate (s : State) (k : StationId) : (s.countOverrun k).gate = s.gate :=
  (congrArg State.gate (countOverrun_frame s k)).trans rfl
@[simp] theorem countOverrun_replay (s : State) (k : StationId) : (s.countOverrun k).replay = s.replay :=
  (congrArg State.replay (countOverrun_frame s k)).trans rfl
@[simp] theorem countOverrun_port (s : State) (k : StationId) : (s.countOverrun k).port = s.port :=
  (congrArg State.port (countOverrun_frame s k)).trans rfl
@[simp] theorem countOverrun_writer (s : State) (k : StationId) : (s.countOverrun k).writer = s.writer :=
  (congrArg State.writer (countOverrun_frame s k)).trans rfl
@[simp] theorem countOverrun_log (s : State) (k : StationId) : (s.countOverrun k).log = s.log :=
  (congrArg State.log (countOverrun_frame s k)).trans rfl

theorem countStale_frame (s : State) (k : StationId) :
    s.countStale k = { s with stations := (s.countStale k).stations } := rfl

@[simp] theorem countStale_now (s : State) (k : StationId) : (s.countStale k).now = s.now :=
  (congrArg State.now (countStale_frame s k)).trans rfl
@[simp] theorem countStale_pending (s : State) (k : StationId) : (s.countStale k).pending = s.pending :=
  (congrArg State.pending (countStale_frame s k)).trans rfl
@[simp] theorem countStale_porst (s : State) (k : StationId) : (s.countStale k).porst = s.porst :=
  (congrArg State.porst (countStale_frame s k)).trans rfl
@[simp] theorem countStale_busrst (s : State) (k : StationId) : (s.countStale k).busrst = s.busrst :=
  (congrArg State.busrst (countStale_frame s k)).trans rfl
@[simp] theorem countStale_taking (s : State) (k : StationId) : (s.countStale k).taking = s.taking :=
  (congrArg State.taking (countStale_frame s k)).trans rfl
@[simp] theorem countStale_boot (s : State) (k : StationId) : (s.countStale k).boot = s.boot :=
  (congrArg State.boot (countStale_frame s k)).trans rfl
@[simp] theorem countStale_proc (s : State) (k : StationId) : (s.countStale k).proc = s.proc :=
  (congrArg State.proc (countStale_frame s k)).trans rfl
@[simp] theorem countStale_cache (s : State) (k : StationId) : (s.countStale k).cache = s.cache :=
  (congrArg State.cache (countStale_frame s k)).trans rfl
@[simp] theorem countStale_shadows (s : State) (k : StationId) : (s.countStale k).shadows = s.shadows :=
  (congrArg State.shadows (countStale_frame s k)).trans rfl
@[simp] theorem countStale_job (s : State) (k : StationId) : (s.countStale k).job = s.job :=
  (congrArg State.job (countStale_frame s k)).trans rfl
@[simp] theorem countStale_links (s : State) (k : StationId) : (s.countStale k).links = s.links :=
  (congrArg State.links (countStale_frame s k)).trans rfl
@[simp] theorem countStale_breaks (s : State) (k : StationId) : (s.countStale k).breaks = s.breaks :=
  (congrArg State.breaks (countStale_frame s k)).trans rfl
@[simp] theorem countStale_stop (s : State) (k : StationId) : (s.countStale k).stop = s.stop :=
  (congrArg State.stop (countStale_frame s k)).trans rfl
@[simp] theorem countStale_gate (s : State) (k : StationId) : (s.countStale k).gate = s.gate :=
  (congrArg State.gate (countStale_frame s k)).trans rfl
@[simp] theorem countStale_replay (s : State) (k : StationId) : (s.countStale k).replay = s.replay :=
  (congrArg State.replay (countStale_frame s k)).trans rfl
@[simp] theorem countStale_port (s : State) (k : StationId) : (s.countStale k).port = s.port :=
  (congrArg State.port (countStale_frame s k)).trans rfl
@[simp] theorem countStale_writer (s : State) (k : StationId) : (s.countStale k).writer = s.writer :=
  (congrArg State.writer (countStale_frame s k)).trans rfl
@[simp] theorem countStale_log (s : State) (k : StationId) : (s.countStale k).log = s.log :=
  (congrArg State.log (countStale_frame s k)).trans rfl

theorem countRetry_frame (s : State) (k : StationId) :
    s.countRetry k = { s with stations := (s.countRetry k).stations } := rfl

@[simp] theorem countRetry_now (s : State) (k : StationId) : (s.countRetry k).now = s.now :=
  (congrArg State.now (countRetry_frame s k)).trans rfl
@[simp] theorem countRetry_pending (s : State) (k : StationId) : (s.countRetry k).pending = s.pending :=
  (congrArg State.pending (countRetry_frame s k)).trans rfl
@[simp] theorem countRetry_porst (s : State) (k : StationId) : (s.countRetry k).porst = s.porst :=
  (congrArg State.porst (countRetry_frame s k)).trans rfl
@[simp] theorem countRetry_busrst (s : State) (k : StationId) : (s.countRetry k).busrst = s.busrst :=
  (congrArg State.busrst (countRetry_frame s k)).trans rfl
@[simp] theorem countRetry_taking (s : State) (k : StationId) : (s.countRetry k).taking = s.taking :=
  (congrArg State.taking (countRetry_frame s k)).trans rfl
@[simp] theorem countRetry_boot (s : State) (k : StationId) : (s.countRetry k).boot = s.boot :=
  (congrArg State.boot (countRetry_frame s k)).trans rfl
@[simp] theorem countRetry_proc (s : State) (k : StationId) : (s.countRetry k).proc = s.proc :=
  (congrArg State.proc (countRetry_frame s k)).trans rfl
@[simp] theorem countRetry_cache (s : State) (k : StationId) : (s.countRetry k).cache = s.cache :=
  (congrArg State.cache (countRetry_frame s k)).trans rfl
@[simp] theorem countRetry_shadows (s : State) (k : StationId) : (s.countRetry k).shadows = s.shadows :=
  (congrArg State.shadows (countRetry_frame s k)).trans rfl
@[simp] theorem countRetry_job (s : State) (k : StationId) : (s.countRetry k).job = s.job :=
  (congrArg State.job (countRetry_frame s k)).trans rfl
@[simp] theorem countRetry_links (s : State) (k : StationId) : (s.countRetry k).links = s.links :=
  (congrArg State.links (countRetry_frame s k)).trans rfl
@[simp] theorem countRetry_breaks (s : State) (k : StationId) : (s.countRetry k).breaks = s.breaks :=
  (congrArg State.breaks (countRetry_frame s k)).trans rfl
@[simp] theorem countRetry_stop (s : State) (k : StationId) : (s.countRetry k).stop = s.stop :=
  (congrArg State.stop (countRetry_frame s k)).trans rfl
@[simp] theorem countRetry_gate (s : State) (k : StationId) : (s.countRetry k).gate = s.gate :=
  (congrArg State.gate (countRetry_frame s k)).trans rfl
@[simp] theorem countRetry_replay (s : State) (k : StationId) : (s.countRetry k).replay = s.replay :=
  (congrArg State.replay (countRetry_frame s k)).trans rfl
@[simp] theorem countRetry_port (s : State) (k : StationId) : (s.countRetry k).port = s.port :=
  (congrArg State.port (countRetry_frame s k)).trans rfl
@[simp] theorem countRetry_writer (s : State) (k : StationId) : (s.countRetry k).writer = s.writer :=
  (congrArg State.writer (countRetry_frame s k)).trans rfl
@[simp] theorem countRetry_log (s : State) (k : StationId) : (s.countRetry k).log = s.log :=
  (congrArg State.log (countRetry_frame s k)).trans rfl

theorem countBreak_frame (s : State) (k : StationId) :
    s.countBreak k = { s with stations := (s.countBreak k).stations } := rfl

@[simp] theorem countBreak_now (s : State) (k : StationId) : (s.countBreak k).now = s.now :=
  (congrArg State.now (countBreak_frame s k)).trans rfl
@[simp] theorem countBreak_pending (s : State) (k : StationId) : (s.countBreak k).pending = s.pending :=
  (congrArg State.pending (countBreak_frame s k)).trans rfl
@[simp] theorem countBreak_porst (s : State) (k : StationId) : (s.countBreak k).porst = s.porst :=
  (congrArg State.porst (countBreak_frame s k)).trans rfl
@[simp] theorem countBreak_busrst (s : State) (k : StationId) : (s.countBreak k).busrst = s.busrst :=
  (congrArg State.busrst (countBreak_frame s k)).trans rfl
@[simp] theorem countBreak_taking (s : State) (k : StationId) : (s.countBreak k).taking = s.taking :=
  (congrArg State.taking (countBreak_frame s k)).trans rfl
@[simp] theorem countBreak_boot (s : State) (k : StationId) : (s.countBreak k).boot = s.boot :=
  (congrArg State.boot (countBreak_frame s k)).trans rfl
@[simp] theorem countBreak_proc (s : State) (k : StationId) : (s.countBreak k).proc = s.proc :=
  (congrArg State.proc (countBreak_frame s k)).trans rfl
@[simp] theorem countBreak_cache (s : State) (k : StationId) : (s.countBreak k).cache = s.cache :=
  (congrArg State.cache (countBreak_frame s k)).trans rfl
@[simp] theorem countBreak_shadows (s : State) (k : StationId) : (s.countBreak k).shadows = s.shadows :=
  (congrArg State.shadows (countBreak_frame s k)).trans rfl
@[simp] theorem countBreak_job (s : State) (k : StationId) : (s.countBreak k).job = s.job :=
  (congrArg State.job (countBreak_frame s k)).trans rfl
@[simp] theorem countBreak_links (s : State) (k : StationId) : (s.countBreak k).links = s.links :=
  (congrArg State.links (countBreak_frame s k)).trans rfl
@[simp] theorem countBreak_breaks (s : State) (k : StationId) : (s.countBreak k).breaks = s.breaks :=
  (congrArg State.breaks (countBreak_frame s k)).trans rfl
@[simp] theorem countBreak_stop (s : State) (k : StationId) : (s.countBreak k).stop = s.stop :=
  (congrArg State.stop (countBreak_frame s k)).trans rfl
@[simp] theorem countBreak_gate (s : State) (k : StationId) : (s.countBreak k).gate = s.gate :=
  (congrArg State.gate (countBreak_frame s k)).trans rfl
@[simp] theorem countBreak_replay (s : State) (k : StationId) : (s.countBreak k).replay = s.replay :=
  (congrArg State.replay (countBreak_frame s k)).trans rfl
@[simp] theorem countBreak_port (s : State) (k : StationId) : (s.countBreak k).port = s.port :=
  (congrArg State.port (countBreak_frame s k)).trans rfl
@[simp] theorem countBreak_writer (s : State) (k : StationId) : (s.countBreak k).writer = s.writer :=
  (congrArg State.writer (countBreak_frame s k)).trans rfl
@[simp] theorem countBreak_log (s : State) (k : StationId) : (s.countBreak k).log = s.log :=
  (congrArg State.log (countBreak_frame s k)).trans rfl

theorem countClamp_frame (s : State) (k : StationId) (c : Record) :
    s.countClamp k c = { s with stations := (s.countClamp k c).stations } := by
  unfold State.countClamp; simp only []; split <;> rfl

@[simp] theorem countClamp_now (s : State) (k : StationId) (c : Record) : (s.countClamp k c).now = s.now :=
  (congrArg State.now (countClamp_frame s k c)).trans rfl
@[simp] theorem countClamp_pending (s : State) (k : StationId) (c : Record) : (s.countClamp k c).pending = s.pending :=
  (congrArg State.pending (countClamp_frame s k c)).trans rfl
@[simp] theorem countClamp_porst (s : State) (k : StationId) (c : Record) : (s.countClamp k c).porst = s.porst :=
  (congrArg State.porst (countClamp_frame s k c)).trans rfl
@[simp] theorem countClamp_busrst (s : State) (k : StationId) (c : Record) : (s.countClamp k c).busrst = s.busrst :=
  (congrArg State.busrst (countClamp_frame s k c)).trans rfl
@[simp] theorem countClamp_taking (s : State) (k : StationId) (c : Record) : (s.countClamp k c).taking = s.taking :=
  (congrArg State.taking (countClamp_frame s k c)).trans rfl
@[simp] theorem countClamp_boot (s : State) (k : StationId) (c : Record) : (s.countClamp k c).boot = s.boot :=
  (congrArg State.boot (countClamp_frame s k c)).trans rfl
@[simp] theorem countClamp_proc (s : State) (k : StationId) (c : Record) : (s.countClamp k c).proc = s.proc :=
  (congrArg State.proc (countClamp_frame s k c)).trans rfl
@[simp] theorem countClamp_cache (s : State) (k : StationId) (c : Record) : (s.countClamp k c).cache = s.cache :=
  (congrArg State.cache (countClamp_frame s k c)).trans rfl
@[simp] theorem countClamp_shadows (s : State) (k : StationId) (c : Record) : (s.countClamp k c).shadows = s.shadows :=
  (congrArg State.shadows (countClamp_frame s k c)).trans rfl
@[simp] theorem countClamp_job (s : State) (k : StationId) (c : Record) : (s.countClamp k c).job = s.job :=
  (congrArg State.job (countClamp_frame s k c)).trans rfl
@[simp] theorem countClamp_links (s : State) (k : StationId) (c : Record) : (s.countClamp k c).links = s.links :=
  (congrArg State.links (countClamp_frame s k c)).trans rfl
@[simp] theorem countClamp_breaks (s : State) (k : StationId) (c : Record) : (s.countClamp k c).breaks = s.breaks :=
  (congrArg State.breaks (countClamp_frame s k c)).trans rfl
@[simp] theorem countClamp_stop (s : State) (k : StationId) (c : Record) : (s.countClamp k c).stop = s.stop :=
  (congrArg State.stop (countClamp_frame s k c)).trans rfl
@[simp] theorem countClamp_gate (s : State) (k : StationId) (c : Record) : (s.countClamp k c).gate = s.gate :=
  (congrArg State.gate (countClamp_frame s k c)).trans rfl
@[simp] theorem countClamp_replay (s : State) (k : StationId) (c : Record) : (s.countClamp k c).replay = s.replay :=
  (congrArg State.replay (countClamp_frame s k c)).trans rfl
@[simp] theorem countClamp_port (s : State) (k : StationId) (c : Record) : (s.countClamp k c).port = s.port :=
  (congrArg State.port (countClamp_frame s k c)).trans rfl
@[simp] theorem countClamp_writer (s : State) (k : StationId) (c : Record) : (s.countClamp k c).writer = s.writer :=
  (congrArg State.writer (countClamp_frame s k c)).trans rfl
@[simp] theorem countClamp_log (s : State) (k : StationId) (c : Record) : (s.countClamp k c).log = s.log :=
  (congrArg State.log (countClamp_frame s k c)).trans rfl

theorem discardQueue_frame (s : State) (k : StationId) :
    s.discardQueue k = { s with stations := (s.discardQueue k).stations, links := (s.discardQueue k).links } := rfl

@[simp] theorem discardQueue_now (s : State) (k : StationId) : (s.discardQueue k).now = s.now :=
  (congrArg State.now (discardQueue_frame s k)).trans rfl
@[simp] theorem discardQueue_pending (s : State) (k : StationId) : (s.discardQueue k).pending = s.pending :=
  (congrArg State.pending (discardQueue_frame s k)).trans rfl
@[simp] theorem discardQueue_porst (s : State) (k : StationId) : (s.discardQueue k).porst = s.porst :=
  (congrArg State.porst (discardQueue_frame s k)).trans rfl
@[simp] theorem discardQueue_busrst (s : State) (k : StationId) : (s.discardQueue k).busrst = s.busrst :=
  (congrArg State.busrst (discardQueue_frame s k)).trans rfl
@[simp] theorem discardQueue_taking (s : State) (k : StationId) : (s.discardQueue k).taking = s.taking :=
  (congrArg State.taking (discardQueue_frame s k)).trans rfl
@[simp] theorem discardQueue_boot (s : State) (k : StationId) : (s.discardQueue k).boot = s.boot :=
  (congrArg State.boot (discardQueue_frame s k)).trans rfl
@[simp] theorem discardQueue_proc (s : State) (k : StationId) : (s.discardQueue k).proc = s.proc :=
  (congrArg State.proc (discardQueue_frame s k)).trans rfl
@[simp] theorem discardQueue_cache (s : State) (k : StationId) : (s.discardQueue k).cache = s.cache :=
  (congrArg State.cache (discardQueue_frame s k)).trans rfl
@[simp] theorem discardQueue_shadows (s : State) (k : StationId) : (s.discardQueue k).shadows = s.shadows :=
  (congrArg State.shadows (discardQueue_frame s k)).trans rfl
@[simp] theorem discardQueue_job (s : State) (k : StationId) : (s.discardQueue k).job = s.job :=
  (congrArg State.job (discardQueue_frame s k)).trans rfl
@[simp] theorem discardQueue_breaks (s : State) (k : StationId) : (s.discardQueue k).breaks = s.breaks :=
  (congrArg State.breaks (discardQueue_frame s k)).trans rfl
@[simp] theorem discardQueue_stop (s : State) (k : StationId) : (s.discardQueue k).stop = s.stop :=
  (congrArg State.stop (discardQueue_frame s k)).trans rfl
@[simp] theorem discardQueue_gate (s : State) (k : StationId) : (s.discardQueue k).gate = s.gate :=
  (congrArg State.gate (discardQueue_frame s k)).trans rfl
@[simp] theorem discardQueue_replay (s : State) (k : StationId) : (s.discardQueue k).replay = s.replay :=
  (congrArg State.replay (discardQueue_frame s k)).trans rfl
@[simp] theorem discardQueue_port (s : State) (k : StationId) : (s.discardQueue k).port = s.port :=
  (congrArg State.port (discardQueue_frame s k)).trans rfl
@[simp] theorem discardQueue_writer (s : State) (k : StationId) : (s.discardQueue k).writer = s.writer :=
  (congrArg State.writer (discardQueue_frame s k)).trans rfl
@[simp] theorem discardQueue_log (s : State) (k : StationId) : (s.discardQueue k).log = s.log :=
  (congrArg State.log (discardQueue_frame s k)).trans rfl

theorem portAnswered_frame (s : State) :
    s.portAnswered = { s with port := (s.portAnswered).port } := rfl

@[simp] theorem portAnswered_now (s : State) : (s.portAnswered).now = s.now :=
  (congrArg State.now (portAnswered_frame s)).trans rfl
@[simp] theorem portAnswered_pending (s : State) : (s.portAnswered).pending = s.pending :=
  (congrArg State.pending (portAnswered_frame s)).trans rfl
@[simp] theorem portAnswered_porst (s : State) : (s.portAnswered).porst = s.porst :=
  (congrArg State.porst (portAnswered_frame s)).trans rfl
@[simp] theorem portAnswered_busrst (s : State) : (s.portAnswered).busrst = s.busrst :=
  (congrArg State.busrst (portAnswered_frame s)).trans rfl
@[simp] theorem portAnswered_taking (s : State) : (s.portAnswered).taking = s.taking :=
  (congrArg State.taking (portAnswered_frame s)).trans rfl
@[simp] theorem portAnswered_boot (s : State) : (s.portAnswered).boot = s.boot :=
  (congrArg State.boot (portAnswered_frame s)).trans rfl
@[simp] theorem portAnswered_proc (s : State) : (s.portAnswered).proc = s.proc :=
  (congrArg State.proc (portAnswered_frame s)).trans rfl
@[simp] theorem portAnswered_cache (s : State) : (s.portAnswered).cache = s.cache :=
  (congrArg State.cache (portAnswered_frame s)).trans rfl
@[simp] theorem portAnswered_shadows (s : State) : (s.portAnswered).shadows = s.shadows :=
  (congrArg State.shadows (portAnswered_frame s)).trans rfl
@[simp] theorem portAnswered_job (s : State) : (s.portAnswered).job = s.job :=
  (congrArg State.job (portAnswered_frame s)).trans rfl
@[simp] theorem portAnswered_stations (s : State) : (s.portAnswered).stations = s.stations :=
  (congrArg State.stations (portAnswered_frame s)).trans rfl
@[simp] theorem portAnswered_links (s : State) : (s.portAnswered).links = s.links :=
  (congrArg State.links (portAnswered_frame s)).trans rfl
@[simp] theorem portAnswered_breaks (s : State) : (s.portAnswered).breaks = s.breaks :=
  (congrArg State.breaks (portAnswered_frame s)).trans rfl
@[simp] theorem portAnswered_stop (s : State) : (s.portAnswered).stop = s.stop :=
  (congrArg State.stop (portAnswered_frame s)).trans rfl
@[simp] theorem portAnswered_gate (s : State) : (s.portAnswered).gate = s.gate :=
  (congrArg State.gate (portAnswered_frame s)).trans rfl
@[simp] theorem portAnswered_replay (s : State) : (s.portAnswered).replay = s.replay :=
  (congrArg State.replay (portAnswered_frame s)).trans rfl
@[simp] theorem portAnswered_writer (s : State) : (s.portAnswered).writer = s.writer :=
  (congrArg State.writer (portAnswered_frame s)).trans rfl
@[simp] theorem portAnswered_log (s : State) : (s.portAnswered).log = s.log :=
  (congrArg State.log (portAnswered_frame s)).trans rfl

end Sys2Proof.Machine
end

