-- ==== Sys2Proof/Laws/Report.lean ====
section
/-! SUPPORT. What `report` does: it changes the marks alone, and marks exactly the records that were
marked or whose contents differ (R163). -/

namespace Sys2Proof.Machine

theorem report_frame (s t : State) :
    report s t = { t with writer := { t.writer with marks := changedMarks s t } } := rfl

@[simp] theorem report_now (s t : State) : (report s t).now = t.now := rfl
@[simp] theorem report_pending (s t : State) : (report s t).pending = t.pending := rfl
@[simp] theorem report_porst (s t : State) : (report s t).porst = t.porst := rfl
@[simp] theorem report_busrst (s t : State) : (report s t).busrst = t.busrst := rfl
@[simp] theorem report_taking (s t : State) : (report s t).taking = t.taking := rfl
@[simp] theorem report_boot (s t : State) : (report s t).boot = t.boot := rfl
@[simp] theorem report_proc (s t : State) : (report s t).proc = t.proc := rfl
@[simp] theorem report_cache (s t : State) : (report s t).cache = t.cache := rfl
@[simp] theorem report_shadows (s t : State) : (report s t).shadows = t.shadows := rfl
@[simp] theorem report_job (s t : State) : (report s t).job = t.job := rfl
@[simp] theorem report_stations (s t : State) : (report s t).stations = t.stations := rfl
@[simp] theorem report_links (s t : State) : (report s t).links = t.links := rfl
@[simp] theorem report_breaks (s t : State) : (report s t).breaks = t.breaks := rfl
@[simp] theorem report_stop (s t : State) : (report s t).stop = t.stop := rfl
@[simp] theorem report_gate (s t : State) : (report s t).gate = t.gate := rfl
@[simp] theorem report_replay (s t : State) : (report s t).replay = t.replay := rfl
@[simp] theorem report_port (s t : State) : (report s t).port = t.port := rfl
@[simp] theorem report_log (s t : State) : (report s t).log = t.log := rfl
@[simp] theorem report_writer_owed (s t : State) : (report s t).writer.owed = t.writer.owed := rfl
@[simp] theorem report_writer_position (s t : State) : (report s t).writer.position = t.writer.position := rfl
@[simp] theorem report_writer_write (s t : State) : (report s t).writer.write = t.writer.write := rfl
@[simp] theorem report_writer_pending (s t : State) : (report s t).writer.pending = t.writer.pending := rfl
@[simp] theorem report_writer_marks (s t : State) :
    (report s t).writer.marks = changedMarks s t := rfl

@[simp] theorem recordLower_report (s t : State) (r : RecordId) :
    recordLower (report s t) r = recordLower t r := by cases r <;> rfl

@[simp] theorem recordUpper_report (s t : State) (r : RecordId) :
    recordUpper (report s t) r = recordUpper t r := by cases r <;> rfl

/-! ### Setting and reading a mark -/

theorem stationBit_get (k j : StationId) : (stationBit k).getLsbD j.val = decide (j = k) := by
  revert k j; decide

theorem stationBit_getElem (k j : StationId) : (stationBit k)[j.val] = decide (j = k) := by
  revert k j; decide

theorem Marks.get_set_self (m : Marks) (r : RecordId) (b : Bool) : (m.set r b).get r = b := by
  cases r <;> cases b <;> simp [Marks.get, Marks.set, inSet, stationBit_get]

theorem Marks.get_set_ne (m : Marks) (r q : RecordId) (b : Bool) (h : q ≠ r) :
    (m.set r b).get q = m.get q := by
  cases r <;> cases q <;> cases b <;>
    simp_all [Marks.get, Marks.set, inSet, stationBit_getElem]

theorem mark_get (s : State) (r q : RecordId) :
    (s.mark r).writer.marks.get q = (decide (q = r) || s.writer.marks.get q) := by
  by_cases h : q = r
  · subst h; simp [State.mark, Marks.get_set_self]
  · simp [State.mark, Marks.get_set_ne _ _ _ _ h, h]

theorem recordIds_complete (r : RecordId) : r ∈ recordIds := by
  cases r with
  | station k => revert k; decide
  | summary => decide
  | errorLog => decide
  | job => decide

/-- Marking each record of a list that has changed. -/
theorem markFold_get (p : RecordId → Bool) (q : RecordId) :
    ∀ (l : List RecordId) (m : Marks),
      (l.foldl (fun m r => if p r then m.set r true else m) m).get q
        = (m.get q || (decide (q ∈ l) && p q))
  | [], m => by simp
  | r :: l, m => by
    rw [List.foldl_cons, markFold_get p q l]
    by_cases h : q = r
    · subst h
      cases hp : p q <;> simp [Marks.get_set_self]
    · have : ((if p r then m.set r true else m).get q) = m.get q := by
        split
        · exact Marks.get_set_ne _ _ _ _ h
        · rfl
      rw [this]; simp [h]

/-- The marks after `report`: those that stood, and those of the records that changed. -/
theorem report_marks_get (s t : State) (r : RecordId) :
    (report s t).writer.marks.get r = (t.writer.marks.get r || recordChanged s t r) := by
  simp only [report_writer_marks, changedMarks, markFold_get, recordIds_complete, decide_true,
    Bool.true_and]

/-- A change of a record's contents marks it. -/
theorem report_marks_changed (s t : State) (r : RecordId) (h : recordChanged s t r = true) :
    (report s t).writer.marks.get r = true := by
  rw [report_marks_get, h, Bool.or_true]

/-- With no record's contents changed, nothing is marked anew. -/
theorem report_same (s t : State) (h : ∀ r, recordChanged s t r = false) : report s t = t := by
  have key : ∀ (l : List RecordId) (m : Marks),
      l.foldl (fun m r => if recordChanged s t r then m.set r true else m) m = m := by
    intro l
    induction l with
    | nil => intro m; rfl
    | cons r l ih => intro m; rw [List.foldl_cons, h r]; exact ih m
  unfold report changedMarks
  rw [key]

theorem recordChanged_self (s : State) (r : RecordId) : recordChanged s s r = false := by
  simp [recordChanged]

/-- A step that changes nothing marks nothing. -/
theorem report_self (s : State) : report s s = s := report_same s s (recordChanged_self s)

/-- The records show the job, the stations, the input monitors, the gate, the pending word, the
enable mask and the error log: where these stand, no record changes. -/
theorem recordChanged_of_shown {s t : State} (hj : t.job = s.job) (hs : t.stations = s.stations)
    (hb : t.breaks = s.breaks) (hp : t.stop = s.stop) (hg : t.gate = s.gate)
    (hw : t.writer.pending = s.writer.pending) (he : t.shadows.job = s.shadows.job)
    (hl : t.log = s.log) (r : RecordId) : recordChanged s t r = false := by
  cases r <;>
    simp [recordChanged, recordLower, recordUpper, summaryRecord, enableMask, jobStatusLower,
      jobStatusUpper, hj, hs, hb, hp, hg, hw, he, hl]

theorem report_of_shown {s t : State} (hj : t.job = s.job) (hs : t.stations = s.stations)
    (hb : t.breaks = s.breaks) (hp : t.stop = s.stop) (hg : t.gate = s.gate)
    (hw : t.writer.pending = s.writer.pending) (he : t.shadows.job = s.shadows.job)
    (hl : t.log = s.log) : report s t = t :=
  report_same s t (recordChanged_of_shown hj hs hb hp hg hw he hl)

/-! ### Outcomes -/

/-- Under PORST_N an event does nothing. -/
theorem act_reset {s : State} (h : s.porst = true) (f : State → State) : s.act f = s := by
  simp [State.act, h]

/-- Otherwise it does its effect, and marks what changed. -/
theorem act_running {s : State} (h : s.porst = false) (f : State → State) :
    s.act f = report s (f s) := by
  simp [State.act, h]

/-- After an answer, only what the port keeps of late requests is new. -/
theorem deferred_frame (t : State) (late : List Requester) (s : State) :
    t.deferred late s = { t with port := { t.port with late := (t.deferred late s).port.late } } := rfl

@[simp] theorem deferred_now (t : State) (late : List Requester) (s : State) :
    (t.deferred late s).now = t.now := rfl
@[simp] theorem deferred_pending (t : State) (late : List Requester) (s : State) :
    (t.deferred late s).pending = t.pending := rfl
@[simp] theorem deferred_porst (t : State) (late : List Requester) (s : State) :
    (t.deferred late s).porst = t.porst := rfl
@[simp] theorem deferred_busrst (t : State) (late : List Requester) (s : State) :
    (t.deferred late s).busrst = t.busrst := rfl
@[simp] theorem deferred_taking (t : State) (late : List Requester) (s : State) :
    (t.deferred late s).taking = t.taking := rfl
@[simp] theorem deferred_boot (t : State) (late : List Requester) (s : State) :
    (t.deferred late s).boot = t.boot := rfl
@[simp] theorem deferred_proc (t : State) (late : List Requester) (s : State) :
    (t.deferred late s).proc = t.proc := rfl
@[simp] theorem deferred_cache (t : State) (late : List Requester) (s : State) :
    (t.deferred late s).cache = t.cache := rfl
@[simp] theorem deferred_shadows (t : State) (late : List Requester) (s : State) :
    (t.deferred late s).shadows = t.shadows := rfl
@[simp] theorem deferred_job (t : State) (late : List Requester) (s : State) :
    (t.deferred late s).job = t.job := rfl
@[simp] theorem deferred_stations (t : State) (late : List Requester) (s : State) :
    (t.deferred late s).stations = t.stations := rfl
@[simp] theorem deferred_links (t : State) (late : List Requester) (s : State) :
    (t.deferred late s).links = t.links := rfl
@[simp] theorem deferred_breaks (t : State) (late : List Requester) (s : State) :
    (t.deferred late s).breaks = t.breaks := rfl
@[simp] theorem deferred_stop (t : State) (late : List Requester) (s : State) :
    (t.deferred late s).stop = t.stop := rfl
@[simp] theorem deferred_gate (t : State) (late : List Requester) (s : State) :
    (t.deferred late s).gate = t.gate := rfl
@[simp] theorem deferred_replay (t : State) (late : List Requester) (s : State) :
    (t.deferred late s).replay = t.replay := rfl
@[simp] theorem deferred_writer (t : State) (late : List Requester) (s : State) :
    (t.deferred late s).writer = t.writer := rfl
@[simp] theorem deferred_log (t : State) (late : List Requester) (s : State) :
    (t.deferred late s).log = t.log := rfl
@[simp] theorem deferred_inFlight (t : State) (late : List Requester) (s : State) :
    (t.deferred late s).port.inFlight = t.port.inFlight := rfl
@[simp] theorem deferred_hold (t : State) (late : List Requester) (s : State) :
    (t.deferred late s).port.hold = t.port.hold := rfl
@[simp] theorem deferred_drainPos (t : State) (late : List Requester) (s : State) :
    (t.deferred late s).port.drainPos = t.port.drainPos := rfl

/-- No request comes late where the answer names none. -/
@[simp] theorem deferred_nil (t s : State) : t.deferred [] s = t := by
  simp [State.deferred, State.setPort]

/-- A late request is one that the answer names, and that its own work has made on a port left free. -/
theorem mem_deferred_late (t : State) (late : List Requester) (s : State) (r : Requester) :
    r ∈ (t.deferred late s).port.late ↔ r ∈ t.port.late
      ∨ (r ∈ late ∧ portFree t = true ∧ standing t r = true ∧ standing s r = false) := by
  simp [State.deferred, and_assoc]

/-- An answer to an abandoned transaction changes nothing; another does its effect, and what is late
is kept. -/
theorem actAnswer_next {α : Type} {s t : State} {f : α → State → State} {a : Arrived α}
    (h : s.actAnswer f a = .next t) :
    t = s ∨ ∃ late x, a = .current late x ∧ t = (s.act (f x)).deferred late s := by
  cases a with
  | current late x => exact Or.inr ⟨late, x, rfl, (Host.Outcome.next.inj h).symm⟩
  | abandoned => exact Or.inl (Host.Outcome.next.inj h).symm

end Sys2Proof.Machine
end

