-- ==== Sys2Proof/Laws/Arbiter.lean ====
section
/-! SUPPORT. The arbiter's choice: the requester that the statements call granted next is the one that
ARBITER_GRANT grants; and what an answer row gives. -/

namespace Sys2Proof.Machine

/-- The first of a list in rising order that meets a test is the one before which none does. -/
theorem find_of_rising {α : Type} (rank : α → Nat) {p : α → Bool} {r : α} (hp : p r = true)
    (hb : ∀ q, rank q < rank r → p q = false) :
    ∀ l : List α, l.Pairwise (fun a b => rank a < rank b) → r ∈ l → l.find? p = some r
  | [], _, hr => absurd hr List.not_mem_nil
  | a :: l, hs, hr => by
    obtain ⟨ha, hl⟩ := List.pairwise_cons.mp hs
    rcases List.mem_cons.mp hr with rfl | hr
    · exact List.find?_cons_of_pos hp
    · rw [List.find?_cons_of_neg (by rw [hb a (ha r hr)]; exact Bool.false_ne_true)]
      exact find_of_rising rank hp hb l hl hr

/-- The rank as a function of the drain position alone. -/
def rankFrom (p : StationId) : Requester → Nat
  | .transit => 0
  | .commandJob => 1
  | .commandStation k => 2 + k.val
  | .status => 8
  | .drain k => 9 + (k - (p + 1)).val
  | .replay => 15

theorem grantRank_eq (s : State) : grantRank s = rankFrom s.port.drainPos := by
  funext r
  cases r <;> rfl

/-- The order of a grant is that of the ranks. -/
theorem grantOrder_rises (s : State) :
    (grantOrder s).Pairwise (fun a b => grantRank s a < grantRank s b) := by
  rw [grantRank_eq]
  unfold grantOrder
  generalize s.port.drainPos = p
  revert p
  decide

theorem grantOrder_complete (s : State) (r : Requester) : r ∈ grantOrder s := by
  unfold grantOrder
  generalize s.port.drainPos = p
  cases r with
  | transit => revert p; decide
  | commandJob => revert p; decide
  | commandStation k => revert k p; decide
  | status => revert p; decide
  | drain k => revert k p; decide
  | replay => revert p; decide

theorem competes_iff (s : State) (r : Requester) :
    competes s r = true ↔ standing s r = true ∧ r ∉ s.port.late := by
  simp [competes]

/-- The requester granted next is the one chosen. -/
theorem grantedNext_chosen {s : State} {r : Requester} (h : GrantedNext s r) : chosen s = some r := by
  obtain ⟨-, -, -, ⟨hr, hl⟩, hb⟩ := h
  unfold chosen
  by_cases hn : r ∈ s.port.late
  · have all : ∀ q, standing s q = true → q ∈ s.port.late := hl hn
    rw [List.find?_eq_none.mpr fun q _ h =>
      ((competes_iff s q).mp h).2 (all q ((competes_iff s q).mp h).1), Option.none_or]
    refine find_of_rising (grantRank s) hr (fun q hq => ?_) _ (grantOrder_rises s)
      (grantOrder_complete s r)
    by_contra hs
    rw [Bool.not_eq_false] at hs
    exact hb q hq ⟨hs, fun _ => all⟩
  · rw [find_of_rising (grantRank s) ((competes_iff s r).mpr ⟨hr, hn⟩) (fun q hq => ?_) _
      (grantOrder_rises s) (grantOrder_complete s r), Option.some_or]
    by_contra hs
    rw [Bool.not_eq_false, competes_iff] at hs
    exact hb q hq ⟨hs.1, fun h => absurd h hs.2⟩

/-- ARBITER_GRANT grants the requester that is next. -/
theorem arbiterGrant_granted {s : State} {r : Requester} (h : GrantedNext s r) :
    exec .arbiterGrant s = .next (report s (grantTo r s.granting)) := by
  have hf : portFree s = true := by
    unfold portFree
    rw [h.2.1, h.2.2.1]
    rfl
  show Host.Outcome.next (s.act arbiterGrant) = _
  rw [act_running h.1]
  unfold arbiterGrant
  rw [if_pos hf, grantedNext_chosen h]
  rfl

/-- A port that is not free grants nothing. -/
theorem arbiterGrant_busy {s : State} (h : portFree s = false) : arbiterGrant s = s := by
  unfold arbiterGrant
  rw [if_neg (by rw [h]; exact Bool.false_ne_true)]

/-- An answer row gives what its effect does, with the marks of what has changed. -/
theorem answerGives_of {α : Type} {row : Arrived α → Instr} {f : α → State → State} {ans : α}
    {s : State} (hr : ∀ a, exec (row a) s = s.actAnswer f a) (hp : s.porst = false) :
    AnswerGives row ans s (report s (f ans s)) := by
  intro late
  rw [hr]
  show Host.Outcome.next ((s.act (f ans)).deferred late s) = _
  rw [act_running hp]

end Sys2Proof.Machine
end

