-- ==== Sys2Proof/Laws/MemoryPort.lean ====
section
/-! SUPPORT. The shared operations of the memory port and the status writer: what each leaves alone,
and the status write that the port carries. -/

namespace Sys2Proof.Machine

theorem statusInFlight_eq {s : State} {w : StatusWrite} {t : MemTxn}
    (hp : s.port.inFlight = some ⟨.status, t⟩) (hw : s.writer.write = some w) :
    statusInFlight s = some (w, t) := by
  simp [statusInFlight, hp, hw]

theorem statusInFlight_some {s : State} {w : StatusWrite} {t : MemTxn}
    (h : statusInFlight s = some (w, t)) :
    s.port.inFlight = some ⟨.status, t⟩ ∧ s.writer.write = some w := by
  unfold statusInFlight at h
  split at h
  case h_1 t' w' h1 h2 =>
    obtain ⟨rfl, rfl⟩ := Prod.mk.inj (Option.some.inj h)
    exact ⟨h1, h2⟩
  all_goals exact absurd h (by simp)

theorem inFlightFor_eq {s : State} {r : Requester} {t : MemTxn}
    (h : s.port.inFlight = some ⟨r, t⟩) : inFlightFor s r = true := by
  simp [inFlightFor, h]

theorem inFlightFor_some {s : State} {r : Requester} (h : inFlightFor s r = true) :
    ∃ t, s.port.inFlight = some ⟨r, t⟩ := by
  unfold inFlightFor at h
  split at h
  · rename_i f hf
    obtain rfl := beq_iff_eq.mp h
    exact ⟨f.txn, hf⟩
  · exact absurd h (by simp)

/-- The end of a status write frees the port and changes the writer alone besides. -/
theorem endStatusWrite_eq (s : State) : endStatusWrite s =
    { s with port := { s.port with inFlight := none, hold := none },
             writer := { s.writer with write := none } } := rfl

theorem setPendingBits_eq (b : Word) (s : State) : setPendingBits b s =
    { s with writer := { s.writer with pending := s.writer.pending ||| b } } := rfl

theorem Owed.get_set_self (o : Owed) (r : RecordId) (w : Word) : (o.set r w).get r = w := by
  cases r <;> simp [Owed.get, Owed.set]

theorem Owed.get_set_ne (o : Owed) (r q : RecordId) (w : Word) (h : q ≠ r) :
    (o.set r w).get q = o.get q := by
  cases r with
  | station k =>
    cases q with
    | station j =>
      have hj : j ≠ k := fun e => h (by rw [e])
      simp only [Owed.get, Owed.set, Fin.getElem_fin]
      exact Vector.getElem_set_ne _ _ (fun e => hj (Fin.ext e.symm))
    | summary => rfl
    | errorLog => rfl
    | job => rfl
  | summary => cases q <;> first | rfl | exact absurd rfl h
  | errorLog => cases q <;> first | rfl | exact absurd rfl h
  | job => cases q <;> first | rfl | exact absurd rfl h

theorem owe_get (s : State) (r q : RecordId) (b : Word) :
    (s.owe r b).writer.owed.get q =
      if q = r then s.writer.owed.get q ||| b else s.writer.owed.get q := by
  by_cases h : q = r
  · subst h; simp [State.owe, Owed.get_set_self]
  · simp [State.owe, Owed.get_set_ne _ _ _ _ h, h]

@[simp] theorem owe_writer_marks (s : State) (r : RecordId) (b : Word) :
    (s.owe r b).writer.marks = s.writer.marks := rfl

@[simp] theorem owe_writer_pending (s : State) (r : RecordId) (b : Word) :
    (s.owe r b).writer.pending = s.writer.pending := rfl

@[simp] theorem owe_writer_write (s : State) (r : RecordId) (b : Word) :
    (s.owe r b).writer.write = s.writer.write := rfl

@[simp] theorem mark_writer_owed (s : State) (r : RecordId) : (s.mark r).writer.owed = s.writer.owed := rfl

@[simp] theorem mark_writer_pending (s : State) (r : RecordId) :
    (s.mark r).writer.pending = s.writer.pending := rfl

@[simp] theorem mark_writer_write (s : State) (r : RecordId) :
    (s.mark r).writer.write = s.writer.write := rfl

/-- An error taken while the log is empty fills it, marks the record and owes bit 18 (R169). -/
theorem logError_empty {s : State} (h : s.log = none) (e : ErrorKind) (o : Origin) (w : Bool)
    (a d : Word) (st : Option StationId) : s.logError e o w a d st =
      ({ s with log := some ⟨e, o, w, a, d, st, 0#8⟩ }.mark .errorLog).owe .errorLog
        errorLoggedBit := by
  unfold State.logError
  rw [h]

/-- An error taken while the log is full is counted, and marks the record (R169). -/
theorem logError_full {s : State} {l : LogEntry} (h : s.log = some l) (e : ErrorKind) (o : Origin)
    (w : Bool) (a d : Word) (st : Option StationId) : s.logError e o w a d st =
      { s with log := some { l with overflow := satIncByte l.overflow } }.mark .errorLog := by
  unfold State.logError
  rw [h]

@[simp] theorem logError_writer_pending (s : State) (e : ErrorKind) (o : Origin) (w : Bool) (a d : Word)
    (st : Option StationId) : (s.logError e o w a d st).writer.pending = s.writer.pending := by
  unfold State.logError; split <;> rfl

@[simp] theorem logError_writer_write (s : State) (e : ErrorKind) (o : Origin) (w : Bool) (a d : Word)
    (st : Option StationId) : (s.logError e o w a d st).writer.write = s.writer.write := by
  unfold State.logError; split <;> rfl

/-- An error leaves every mark that stands. -/
theorem logError_marks (s : State) (e : ErrorKind) (o : Origin) (w : Bool) (a d : Word)
    (st : Option StationId) (r : RecordId) : (s.logError e o w a d st).writer.marks.get r =
      (decide (r = .errorLog) || s.writer.marks.get r) := by
  unfold State.logError
  split
  · rw [owe_writer_marks, mark_get]
  · rw [mark_get]

/-- An error adds owed bits and takes none away. -/
theorem logError_owed (s : State) (e : ErrorKind) (o : Origin) (w : Bool) (a d : Word)
    (st : Option StationId) (r : RecordId) : (s.logError e o w a d st).writer.owed.get r =
      if r = .errorLog ∧ s.log = none then s.writer.owed.get r ||| errorLoggedBit
      else s.writer.owed.get r := by
  unfold State.logError
  cases h : s.log with
  | none => simp only []; rw [owe_get]; simp
  | some l => simp

theorem returnOwed_frame (w : StatusWrite) (s : State) :
    returnOwed w s = { s with writer := (returnOwed w s).writer } := by
  unfold returnOwed
  split <;> rfl

@[simp] theorem returnOwed_writer_pending (w : StatusWrite) (s : State) :
    (returnOwed w s).writer.pending = s.writer.pending := by
  unfold returnOwed
  split <;> rfl

@[simp] theorem returnOwed_writer_write (w : StatusWrite) (s : State) :
    (returnOwed w s).writer.write = s.writer.write := by
  unfold returnOwed
  split <;> rfl

/-- The pass ends after its last write, and goes on otherwise. -/
theorem passGoesOn_frame (i : Nat) (s : State) :
    passGoesOn i s = { s with boot := (passGoesOn i s).boot, taking := (passGoesOn i s).taking } := by
  unfold passGoesOn
  split <;> rfl

end Sys2Proof.Machine
end

