-- ==== Sys2Proof/Laws/Operands.lean ====
section
/-! SUPPORT. Small facts about addresses, blocks and sequence numbers. -/

namespace Sys2Proof.Machine

theorem byteAddr_toNat (a : WordAddr) : (byteAddr a).toNat = 4 * a.toNat := by
  show BitVec.toNat (w := 30 + 2) (a ++ 0#2) = _
  rw [BitVec.toNat_append]
  simp [Nat.shiftLeft_eq, Nat.mul_comm]

/-- Two blocks share no byte. -/
theorem blocksMeet_eq_false (a m b n : Nat) :
    blocksMeet a m b n = false ↔ ¬(a < b + n ∧ b < a + m) := by
  unfold blocksMeet
  exact decide_eq_false_iff_not

/-- An address aligned to the page size leaves room for the whole page. -/
theorem page_room {p : Word} (h : alignedTo p pageSize = true) : p.toNat + 2048 ≤ 4294967296 := by
  have h1 : p.toNat % 2048 = 0 := by simpa [alignedTo, pageSize] using h
  have h2 := p.isLt
  omega

/-- The word address of a word-aligned offset from an aligned page, as a byte address. -/
theorem byteAddr_extract {p : Word} (h : alignedTo p pageSize = true) {n : Nat} (hn : n < 2048)
    (h4 : n % 4 = 0) :
    (byteAddr ((p + BitVec.ofNat 32 n).extractLsb' 2 30)).toNat = p.toNat + n := by
  have h1 : p.toNat % 2048 = 0 := by simpa [alignedTo, pageSize] using h
  have h2 := page_room h
  rw [byteAddr_toNat, BitVec.extractLsb'_toNat, BitVec.toNat_add, BitVec.toNat_ofNat,
    Nat.shiftRight_eq_div_pow]
  omega

/-! ### Sequence numbers (R3) -/

theorem seqDist_self (a : Seq) : seqDist a a = 0 := by simp [seqDist]

theorem seqBefore_self (a : Seq) : seqBefore a a = false := by simp [seqBefore, seqDist]

theorem seqBefore_succ (a : Seq) : seqBefore a (a + 1#16) = true := by
  have : seqDist a (a + 1#16) = 1 := by
    unfold seqDist
    rw [BitVec.add_comm, BitVec.add_sub_cancel]
    rfl
  simp [seqBefore, this]

theorem seqDist_toNat (a b : Seq) : seqDist a b = (b.toNat + 65536 - a.toNat) % 65536 := by
  unfold seqDist
  rw [BitVec.toNat_sub]
  have := a.isLt
  congr 1
  omega

/-! ### One of six -/

theorem get_set_self {α : Type} (v : Vector α 6) (k : StationId) (x : α) :
    (v.set k x)[k] = x := Vector.getElem_set_self _

theorem get_set_ne {α : Type} (v : Vector α 6) (k j : StationId) (x : α) (h : j ≠ k) :
    (v.set k x)[j] = v[j] :=
  Vector.getElem_set_ne k.isLt j.isLt (fun e => h (Fin.ext e.symm))

end Sys2Proof.Machine
end

