-- ==== Sys2Proof/Laws/Drives.lean ====
section
/-! SUPPORT. The shared operations on a station's feed, drive and link, each as one record update. -/

namespace Sys2Proof.Machine

theorem vector_set_get {α : Type} (v : Vector α 6) (k : StationId) : v.set k v[k] = v := by
  apply Vector.ext
  intro i hi
  by_cases h : k.val = i
  · subst h
    exact Vector.getElem_set_self _
  · exact Vector.getElem_set_ne _ _ h

theorem vector_set_set {α : Type} (v : Vector α 6) (k : StationId) (x y : α) :
    (v.set k x).set k y = v.set k y := by
  apply Vector.ext
  intro i hi
  by_cases h : k.val = i
  · subst h
    rw [Vector.getElem_set_self, Vector.getElem_set_self]
  · rw [Vector.getElem_set_ne _ _ h, Vector.getElem_set_ne _ _ h, Vector.getElem_set_ne _ _ h]

theorem setStation_get (s : State) (k : StationId) (st : Station) :
    (s.setStation k st).stations[k] = st := get_set_self _ _ _

theorem setLink_get (s : State) (k : StationId) (l : Link) : (s.setLink k l).links[k] = l :=
  get_set_self _ _ _

theorem setStation_stations_get (s : State) (k j : StationId) (st : Station) :
    (s.setStation k st).stations[j] = if j = k then st else s.stations[j] := by
  by_cases hj : j = k
  · subst hj
    rw [if_pos rfl]
    exact get_set_self _ _ _
  · rw [if_neg hj]
    exact get_set_ne _ _ _ _ hj

/-- Weighing the staging condition (R111). -/
theorem weighDrain_eq (s : State) (k : StationId) : s.weighDrain k =
    { s with links := s.links.set k (s.links[k].drained s.stations[k]) } := by
  have e : drainDue s.stations[k] s.links[k] = true ↔ s.stations[k].drive ≠ .stopped
      ∧ seqBefore s.stations[k].send s.stations[k].post = true ∧ s.links[k].staging = .empty
      ∧ s.links[k].drain = none := by
    unfold drainDue
    rw [Bool.and_eq_true, Bool.and_eq_true, Bool.and_eq_true, bne_iff_ne, beq_iff_eq,
      Option.isNone_iff_eq_none, and_assoc, and_assoc]
  unfold State.weighDrain Link.drained
  by_cases h : drainDue s.stations[k] s.links[k] = true
  · rw [if_pos h, if_pos (e.mp h)]
    rfl
  · rw [if_neg h, if_neg (fun hh => h (e.mpr hh)), vector_set_get]

/-- Telling the gate of a station (R89). -/
theorem tellGate_eq (s : State) (k : StationId) :
    s.tellGate k = { s with gate := s.gate.told k s.stations[k] } := by
  unfold State.tellGate Gate.told
  simp only [Bool.and_eq_true, Bool.not_eq_true']
  split
  · rfl
  · split <;> rfl

/-- An entry into HELD or FAULT with the staging condition weighed (R56, R57, R111). -/
theorem enterDrive_weigh (s : State) (k : StationId) (d : Drive) (h : Option Byte) :
    (s.enterDrive k d h).weighDrain k =
      s.moved k { s.stations[k] with drive := d, send := s.stations[k].done }
        (s.links[k].rewind.placeHalt h) := by
  have e : s.enterDrive k d h = { s with
      links := s.links.set k (s.links[k].rewind.placeHalt h)
      stations := s.stations.set k { s.stations[k] with drive := d, send := s.stations[k].done }
      gate := s.gate.told k { s.stations[k] with drive := d, send := s.stations[k].done } } := by
    unfold State.enterDrive
    simp only []
    rw [tellGate_eq, setStation_get]
    rfl
  rw [weighDrain_eq, e]
  unfold State.moved
  simp only [vector_set_set, get_set_self]

theorem oweEvent_weighDrain (s : State) (k : StationId) :
    (s.oweEvent k).weighDrain k = (s.weighDrain k).oweEvent k := by
  rw [weighDrain_eq, weighDrain_eq]
  rfl

/-- A request to enter HELD, with the staging condition weighed (R54, R72). -/
theorem requestHeld_weigh (s : State) (k : StationId) (r : HoldReason) :
    (s.requestHeld k r).weighDrain k =
      if s.stations[k].drive = .running ∧ holdOwesEvent r = true then (s.heldBy k r).oweEvent k
      else s.heldBy k r := by
  unfold State.requestHeld State.heldBy
  cases hd : s.stations[k].drive with
  | running =>
    simp only [true_and]
    split
    · rw [oweEvent_weighDrain, enterDrive_weigh]
    · rw [enterDrive_weigh]
  | stopped =>
    simp only [hd, reduceCtorEq, false_and, if_false]
    exact weighDrain_eq s k
  | held h =>
    simp only [hd, reduceCtorEq, false_and, if_false]
    exact weighDrain_eq s k
  | fault c =>
    simp only [hd, reduceCtorEq, false_and, if_false]
    exact weighDrain_eq s k

/-- A request to enter FAULT, with the staging condition weighed (R55, R57, R72). -/
theorem requestFault_weigh (s : State) (k : StationId) (c : FaultCode) :
    (s.requestFault k c).weighDrain k =
      match s.stations[k].drive with
      | .running => (s.moved k { s.stations[k] with drive := .fault c, send := s.stations[k].done }
          (s.links[k].rewind.placeHalt (faultHalt c))).oweEvent k
      | .held _ => (s.moved k { s.stations[k] with drive := .fault c, send := s.stations[k].done }
          (s.links[k].rewind.placeHalt none)).oweEvent k
      | .stopped => { s with links := s.links.set k (s.links[k].drained s.stations[k]) }
      | .fault _ => { s with links := s.links.set k (s.links[k].drained s.stations[k]) } := by
  unfold State.requestFault
  cases hd : s.stations[k].drive with
  | running =>
    simp only []
    rw [oweEvent_weighDrain, enterDrive_weigh]
  | held h =>
    simp only []
    rw [oweEvent_weighDrain, enterDrive_weigh]
  | stopped => exact weighDrain_eq s k
  | fault f => exact weighDrain_eq s k

theorem owe_zero (s : State) (r : RecordId) : s.owe r 0#32 = s := by
  unfold State.owe
  rw [BitVec.or_zero]
  have : s.writer.owed.set r (s.writer.owed.get r) = s.writer.owed := by
    cases r with
    | station k =>
      unfold Owed.set Owed.get
      simp only []
      rw [vector_set_get]
    | summary => rfl
    | errorLog => rfl
    | job => rfl
  rw [this]
  rfl

/-- The same, as the statements have it. -/
theorem requestFault_faultedWith (s : State) (k : StationId) (c : FaultCode) :
    (s.requestFault k c).weighDrain k =
      (s.faultedWith k c (faultHalt c) fun _ l => l).owe (.station k)
        (faultEvent s.stations[k] k) := by
  rw [requestFault_weigh]
  unfold State.faultedWith faultEvent
  cases hd : s.stations[k].drive with
  | running =>
    simp only [hd]
    rfl
  | held h =>
    simp only [hd]
    rfl
  | stopped =>
    simp only [hd]
    rw [owe_zero]
  | fault f =>
    simp only [hd]
    rw [owe_zero]

/-- An outcome whose writer is that of the state before, but for bits owed to one record. -/
theorem endsIn_owed {i : Instr} {s v : State} {r : RecordId} {bits : Word}
    (h : exec i s = .next (report s (v.owe r bits))) (hw : v.writer = s.writer) :
    EndsIn i s v (s.writer.owed.plus r bits) [] := by
  have e : (v.owe r bits).writer = { s.writer with owed := s.writer.owed.plus r bits } := by
    show ({ v.writer with owed := v.writer.owed.plus r bits } : Writer) = _
    rw [hw]
  refine ⟨_, h, rfl, ?_, ?_, ?_, ?_, fun q hq => ?_, fun q hq => by simp at hq⟩
  · rw [report_writer_owed, e]
  · rw [report_writer_pending, e]
  · rw [report_writer_write, e]
  · rw [report_writer_position, e]
  · rw [report_marks_get, e, hq, Bool.true_or]

/-- An outcome whose writer is that of the state before. -/
theorem endsIn_same {i : Instr} {s v : State} (h : exec i s = .next (report s v))
    (hw : v.writer = s.writer) : EndsIn i s v s.writer.owed [] := by
  refine ⟨_, h, rfl, ?_, ?_, ?_, ?_, fun q hq => ?_, fun q hq => by simp at hq⟩
  · rw [report_writer_owed, hw]
  · rw [report_writer_pending, hw]
  · rw [report_writer_write, hw]
  · rw [report_writer_position, hw]
  · rw [report_marks_get, hw, hq, Bool.true_or]

theorem faultedWith_writer (s : State) (k : StationId) (c : FaultCode) (h : Option Byte)
    (after : Station → Link → Link) : (s.faultedWith k c h after).writer = s.writer := by
  unfold State.faultedWith
  cases hd : s.stations[k].drive <;> simp only [hd] <;> rfl

theorem heldBy_writer (s : State) (k : StationId) (r : HoldReason) :
    (s.heldBy k r).writer = s.writer := by
  unfold State.heldBy
  simp only []
  split <;> rfl

/-- An error: the log, the mark of its record, and bit 18 owed where the log was empty (R169). -/
theorem logError_eq (s : State) (e : ErrorKind) (o : Origin) (w : Bool) (a d : Word)
    (st : Option StationId) :
    s.logError e o w a d st = { s with
      log := loggedWith s.log ⟨e, o, w, a, d, st, 0#8⟩
      writer := { s.writer with
        marks := s.writer.marks.set .errorLog true, owed := s.writer.owed.logged s.log } } := by
  unfold State.logError loggedWith Owed.logged
  cases s.log <;> rfl

/-- The log after an error (R169). -/
theorem logError_log_eq (s : State) (e : ErrorKind) (o : Origin) (w : Bool) (a d : Word)
    (st : Option StationId) :
    (s.logError e o w a d st).log = loggedWith s.log ⟨e, o, w, a, d, st, 0#8⟩ := by
  rw [logError_eq]

/-- The owed sets after an error (R169). -/
theorem logError_owed_eq (s : State) (e : ErrorKind) (o : Origin) (w : Bool) (a d : Word)
    (st : Option StationId) :
    (s.logError e o w a d st).writer.owed = s.writer.owed.logged s.log := by
  rw [logError_eq]

/-- Marking a record keeps every mark. -/
theorem Marks.get_set_kept (m : Marks) (r q : RecordId) (h : m.get q = true) :
    (m.set r true).get q = true := by
  by_cases hq : q = r
  · rw [hq]
    exact Marks.get_set_self m r true
  · rw [Marks.get_set_ne m r q true hq, h]

/-- What a refusal reports (R139, R169). -/
theorem refuses_of {s b : State} {p : ProcTxn} {e : ErrorKind} :
    Refuses b p e (report s (b.refuse e p)) := by
  unfold State.refuse State.logProc
  rw [logError_eq]
  refine ⟨rfl, rfl, rfl, rfl, rfl, fun q hq => ?_, fun q hq => ?_⟩
  · rw [report_marks_get]
    exact Bool.or_eq_true_iff.mpr (.inl (Marks.get_set_kept _ _ _ hq))
  · rw [report_marks_get, List.mem_singleton.mp hq]
    exact Bool.or_eq_true_iff.mpr (.inl (Marks.get_set_self b.writer.marks .errorLog true))

/-- Overtaking a turn for the station (R79). -/
theorem overtake_eq (s : State) (k : StationId) :
    s.overtake k = { s with replay := { s.replay with turn := s.overtakenTurn k } } := by
  unfold State.overtake State.overtakenTurn
  cases ht : s.replay.turn with
  | none =>
    show s = { s with replay := { s.replay with turn := none } }
    rw [← ht]
  | some t =>
    simp only [Option.bind_some]
    by_cases hc : t.station = k ∧ t.copy = none
    · rw [if_pos hc, if_pos hc]
      split <;> rfl
    · rw [if_neg hc, if_neg hc]
      show s = { s with replay := { s.replay with turn := some t } }
      rw [← ht]

/-- The feed becomes DETACHED from LIVE (R38, R64). -/
theorem detachFeed_live {s : State} {k : StationId} (h : s.stations[k].feed = .live) :
    s.detachFeed k = State.oweEvent
      { s with stations := s.stations.set k { s.stations[k] with feed := .detached }
               gate := s.gate.told k { s.stations[k] with feed := .detached } } k := by
  unfold State.detachFeed
  rw [h]
  simp only []
  rw [tellGate_eq, setStation_get]
  rfl

/-- The feed becomes DETACHED from CATCHUP (R64, R79, R82). -/
theorem detachFeed_catchup {s : State} {k : StationId} (h : s.stations[k].feed = .catchup) :
    s.detachFeed k = State.oweEvent
      { s with stations := s.stations.set k { s.stations[k] with feed := .detached }
               replay := { s.replay with turn := s.overtakenTurn k }
               gate := s.gate.told k { s.stations[k] with feed := .detached } } k := by
  unfold State.detachFeed
  rw [h]
  simp only []
  rw [overtake_eq, tellGate_eq]
  have e : (s.setStation k { s.stations[k] with feed := .detached }).overtakenTurn k =
      s.overtakenTurn k := rfl
  rw [e]
  simp only [State.setStation, get_set_self]

theorem detachFeed_other {s : State} {k : StationId} (h1 : s.stations[k].feed ≠ .live)
    (h2 : s.stations[k].feed ≠ .catchup) : s.detachFeed k = s := by
  unfold State.detachFeed
  cases hf : s.stations[k].feed with
  | live => exact absurd hf h1
  | catchup => exact absurd hf h2
  | off => rfl
  | detached => rfl
  | lost r => rfl

/-- The feed becomes LOST from DETACHED (R37, R84). -/
theorem loseFeed_detached {s : State} {k : StationId} (r : LossReason)
    (h : s.stations[k].feed = .detached) : s.loseFeed k r = State.oweEvent
      { s with stations := s.stations.set k { s.stations[k] with feed := .lost r }
               gate := s.gate.told k { s.stations[k] with feed := .lost r } } k := by
  unfold State.loseFeed
  rw [h]
  simp only []
  rw [tellGate_eq, setStation_get]
  rfl

/-- The feed becomes LOST from CATCHUP (R37, R79 to R81, R84). -/
theorem loseFeed_catchup {s : State} {k : StationId} (r : LossReason)
    (h : s.stations[k].feed = .catchup) : s.loseFeed k r = State.oweEvent
      { s with stations := s.stations.set k { s.stations[k] with feed := .lost r }
               replay := { s.replay with turn := s.overtakenTurn k }
               gate := s.gate.told k { s.stations[k] with feed := .lost r } } k := by
  unfold State.loseFeed
  rw [h]
  simp only []
  rw [overtake_eq, tellGate_eq]
  have e : (s.setStation k { s.stations[k] with feed := .lost r }).overtakenTurn k =
      s.overtakenTurn k := rfl
  rw [e]
  simp only [State.setStation, get_set_self]

theorem loseFeed_other {s : State} {k : StationId} (r : LossReason)
    (h1 : s.stations[k].feed ≠ .detached) (h2 : s.stations[k].feed ≠ .catchup) :
    s.loseFeed k r = s := by
  unfold State.loseFeed
  cases hf : s.stations[k].feed with
  | detached => exact absurd hf h1
  | catchup => exact absurd hf h2
  | off => rfl
  | live => rfl
  | lost r => rfl

/-! ### Stale frames (R107) -/

theorem satInc_toNat (c : BitVec 16) : (satInc c).toNat = min 65535 (c.toNat + 1) := by
  unfold satInc
  have hc := c.isLt
  split
  · rename_i h
    rw [h]
    rfl
  · rename_i h
    have : c.toNat ≠ 65535 := fun e => h (BitVec.eq_of_toNat_eq e)
    rw [BitVec.toNat_add]
    simp only [BitVec.toNat_ofNat]
    omega

theorem satIncFold_toNat {α : Type} : ∀ (l : List α) (c : BitVec 16),
    (l.foldl (fun n _ => satInc n) c).toNat = min 65535 (c.toNat + l.length)
  | [], c => by
    have := c.isLt
    simp only [List.foldl_nil, List.length_nil]
    omega
  | a :: l, c => by
    rw [List.foldl_cons, satIncFold_toNat l, satInc_toNat, List.length_cons]
    omega

/-- Discarding the queue counts its frames as stale, up to 65535. -/
theorem discardQueue_eq (s : State) (k : StationId) : s.discardQueue k =
    { s with
      stations := s.stations.set k { s.stations[k] with
        counters := staleAdded s.stations[k].counters s.links[k].queue.length }
      links := s.links.set k { s.links[k] with queue := [] } } := by
  have e : s.links[k].queue.foldl (fun n _ => satInc n) s.stations[k].counters.stale =
      BitVec.ofNat 16 (min 65535 (s.stations[k].counters.stale.toNat + s.links[k].queue.length)) := by
    apply BitVec.eq_of_toNat_eq
    rw [satIncFold_toNat, BitVec.toNat_ofNat]
    omega
  unfold State.discardQueue staleAdded
  simp only [e]
  rfl

/-- A rewind cannot be told from one made twice. -/
theorem released_eq (s : State) (k : StationId) :
    finishRelease k s = (((s.released k).mark (.station k)).owe (.station k) (commandDoneBit k)) := by
  unfold finishRelease
  rw [overtake_eq, tellGate_eq, discardQueue_eq]
  have e : ((s.setLink k s.links[k].rewind).setStation k
      (releasedStation s.stations[k])).overtakenTurn k = s.overtakenTurn k := rfl
  rw [e]
  unfold State.completeStation State.released
  simp only [State.setStation, State.setLink, get_set_self, vector_set_set]
  rfl

end Sys2Proof.Machine
end

