-- ==== Sys2Proof/Laws/Transit.lean ====
section
/-! SUPPORT. Presenting a transaction: where the port takes it, which region handles it, and what a
refusal leaves; the answers of the transit group's transactions. -/

namespace Sys2Proof.Machine

/-- A transaction that the port takes and that lies in one block goes to its region (R139). -/
theorem present_routed {p : ProcTxn} {s : State} (ht : s.taking = true) (hc : s.proc.current = none)
    (hb : inOneBlock p = true) : present p s = routed p s := by
  simp [present, ht, hc, hb]

theorem present_retry {p : ProcTxn} {s : State} (ht : s.taking = false)
    (hc : s.proc.current = none) : present p s = s.answer .retry := by
  simp [present, ht, hc]

theorem present_burst {p : ProcTxn} {s : State} (ht : s.taking = true) (hc : s.proc.current = none)
    (hb : inOneBlock p = false) : present p s = s.refuse .burstCross p := by
  simp [present, ht, hc, hb]

theorem routed_page {p : ProcTxn} {s : State} {r : Regions} (hr : s.boot.latched = some r)
    (hp : inPage r (byteAddr p.addr) = true) : routed p s = pageAccess p s := by
  simp [routed, hr, hp]

theorem routed_window {p : ProcTxn} {s : State} {r : Regions} (hr : s.boot.latched = some r)
    (hp : inPage r (byteAddr p.addr) = false) (hw : inWindowSpace r (byteAddr p.addr) = true) :
    routed p s = windowAccess p s := by
  simp [routed, hr, hp, hw]

theorem routed_outside {p : ProcTxn} {s : State} {r : Regions} (hr : s.boot.latched = some r)
    (hp : inPage r (byteAddr p.addr) = false) (hw : inWindowSpace r (byteAddr p.addr) = false) :
    routed p s = forwardTo p (byteAddr p.addr) s := by
  simp [routed, hr, hp, hw]

/-- A change of the transaction in progress and of the cache alone shows in no record. -/
theorem report_startWork (s : State) (p : ProcTxn) (w : TransitWork) :
    report s (s.startWork p w) = s.startWork p w :=
  report_of_shown rfl rfl rfl rfl rfl rfl rfl rfl

theorem report_answer (s : State) (a : ProcAnswer) : report s (s.answer a) = s.answer a :=
  report_of_shown rfl rfl rfl rfl rfl rfl rfl rfl

theorem inPage_iff (r : Regions) (a : Word) : inPage r a = true ↔
    r.page.toNat ≤ a.toNat ∧ a.toNat < r.page.toNat + 2048 := by
  unfold inPage
  exact decide_eq_true_iff

/-- An offset of the page read back from an address in it. -/
theorem pageOffset_eq {r : Regions} {a : Word} (h : alignedTo r.page pageSize = true)
    (hp : inPage r a = true) : pageOffset a = a.toNat - r.page.toNat := by
  have h1 : r.page.toNat % 2048 = 0 := by simpa [alignedTo, pageSize] using h
  rw [inPage_iff] at hp
  unfold pageOffset pageSize
  omega

/-- A write of one word at a word-aligned offset of the page: in one block, in the page, at that
offset. -/
theorem pageWordAddr_spec {s : State} {r : Regions} (hr : s.boot.latched = some r)
    (h : alignedTo r.page pageSize = true) {n : Nat} (hn : n < 2048) (h4 : n % 4 = 0) :
    (byteAddr (pageWordAddr s n)).toNat = r.page.toNat + n
    ∧ inPage r (byteAddr (pageWordAddr s n)) = true
    ∧ pageOffset (byteAddr (pageWordAddr s n)) = n := by
  have e : (byteAddr (pageWordAddr s n)).toNat = r.page.toNat + n := by
    unfold pageWordAddr pageBase
    rw [hr]
    exact byteAddr_extract h hn h4
  have hp : inPage r (byteAddr (pageWordAddr s n)) = true := by
    rw [inPage_iff]
    omega
  refine ⟨e, hp, ?_⟩
  rw [pageOffset_eq h hp]
  omega

/-- The write that ends at a byte offset with the word `last`, after the words `pre`: where it lies
and the words it carries. -/
theorem writeUpTo_spec {s : State} {r : Regions} (hr : s.boot.latched = some r)
    (h : alignedTo r.page pageSize = true) {n : Nat} {pre : List Word} (last : Word)
    (hn : n < 2048) (h4 : n % 4 = 0) (hb : 4 * pre.length ≤ n % 32) :
    txnWords (writeUpTo s n pre last) = pre.map asWhole ++ [asWhole last]
    ∧ inPage r (byteAddr (writeUpTo s n pre last).addr) = true
    ∧ pageOffset (byteAddr (writeUpTo s n pre last).addr) = n - 4 * pre.length
    ∧ inOneBlock (.write (writeUpTo s n pre last)) = true := by
  have h1 : r.page.toNat % 2048 = 0 := by simpa [alignedTo, pageSize] using h
  have ha : (writeUpTo s n pre last).addr = pageWordAddr s (n - 4 * pre.length) := by
    cases pre <;> rfl
  have hw : txnWords (writeUpTo s n pre last) = pre.map asWhole ++ [asWhole last] := by
    cases pre <;> simp [writeUpTo, txnWords]
  obtain ⟨e1, e2, e3⟩ := pageWordAddr_spec (s := s) hr h (n := n - 4 * pre.length) (by omega)
    (by omega)
  refine ⟨hw, by rw [ha]; exact e2, by rw [ha]; exact e3, ?_⟩
  unfold inOneBlock
  rw [decide_eq_true_eq]
  show (byteAddr (writeUpTo s n pre last).addr).toNat % 32
    + 4 * (txnWords (writeUpTo s n pre last)).length ≤ 32
  rw [ha, e1, hw]
  simp only [List.length_append, List.length_map, List.length_cons, List.length_nil]
  omega

/-- A page write by the decisions on its words (R142). -/
theorem pageWrite_taken {t : WriteTxn} {s : State}
    (h : ∀ d ∈ decisions s (pageOffset (byteAddr t.addr)) (txnWords t), d = .taken) :
    pageWrite t s = (applyWords (pageOffset (byteAddr t.addr)) (txnWords t) s).startWork (.write t)
      (.forward (byteAddr t.addr)) := by
  have hc : combine (decisions s (pageOffset (byteAddr t.addr)) (txnWords t)) = .taken := by
    unfold combine
    rw [List.find?_eq_none.mpr (fun d hd => by rw [h d hd]; decide)]
    simp only []
    rw [if_neg]
    rw [List.any_eq_true]
    rintro ⟨d, hd, e⟩
    rw [h d hd] at e
    exact absurd e (by decide)
  unfold pageWrite
  simp only [hc]

theorem pageWrite_retry {t : WriteTxn} {s : State}
    (h : ∀ d ∈ decisions s (pageOffset (byteAddr t.addr)) (txnWords t), d = .taken ∨ d = .retry)
    (hr : .retry ∈ decisions s (pageOffset (byteAddr t.addr)) (txnWords t)) :
    pageWrite t s = s.answer .retry := by
  have hc : combine (decisions s (pageOffset (byteAddr t.addr)) (txnWords t)) = .retry := by
    unfold combine
    rw [List.find?_eq_none.mpr (fun d hd => by rcases h d hd with rfl | rfl <;> decide)]
    simp only []
    rw [if_pos]
    rw [List.any_eq_true]
    exact ⟨_, hr, by decide⟩
  unfold pageWrite
  simp only [hc]

theorem pageWrite_refused {t : WriteTxn} {s : State} {pre post : List Decision} {e : ErrorKind}
    (h : decisions s (pageOffset (byteAddr t.addr)) (txnWords t) = pre ++ .refused e :: post)
    (hp : ∀ d ∈ pre, d = .taken ∨ d = .retry) : pageWrite t s = s.refuse e (.write t) := by
  have hc : combine (decisions s (pageOffset (byteAddr t.addr)) (txnWords t)) = .refused e := by
    unfold combine
    rw [h, List.find?_append,
      List.find?_eq_none.mpr (fun d hd => by rcases hp d hd with rfl | rfl <;> decide)]
    rfl
  unfold pageWrite
  simp only [hc]

theorem decisions_append (s : State) : ∀ (offset : Nat) (a b : List WriteWord),
    decisions s offset (a ++ b) = decisions s offset a ++ decisions s (offset + 4 * a.length) b
  | offset, [], b => by simp [decisions]
  | offset, w :: ws, b => by
    simp only [List.cons_append, decisions, decisions_append s (offset + 4) ws b, List.length_cons]
    congr 3
    omega

theorem applyWords_append : ∀ (offset : Nat) (a b : List WriteWord) (s : State),
    applyWords offset (a ++ b) s = applyWords (offset + 4 * a.length) b (applyWords offset a s)
  | offset, [], b, s => by simp [applyWords]
  | offset, w :: ws, b, s => by
    simp only [List.cons_append, applyWords, applyWords_append (offset + 4) ws b, List.length_cons]
    congr 1
    omega

/-- The transit group's transaction has been answered. -/
theorem portAnswered_eq (s : State) :
    s.portAnswered = { s with port := { s.port with inFlight := none, hold := none } } := rfl

end Sys2Proof.Machine
end

