-- ==== Sys2Proof/Laws/Commit.lean ====
section
/-! SUPPORT. The journal's shared operations: what storing words in the holders does, the cases of a
write handed to the journal controller, and what the end of a commit leaves. -/

namespace Sys2Proof.Machine

/-- The four rows that present a write do the same with it (log 8). -/
theorem exec_presentsWrite {i : Instr} {t : WriteTxn} (h : presentsWrite i t) (s : State) :
    exec i s = .next (report s (present (.write t) s)) := by
  rcases h with (rfl | rfl | rfl | rfl) <;> rfl

/-- A refusal as the last thing a command does. -/
theorem refusedFrom_of {i : Instr} {s b : State} {p : ProcTxn} {e : ErrorKind}
    (h : exec i s = .next (report s (b.refuse e p))) : RefusedFrom i s b p e := ⟨_, h, refuses_of⟩

/-- A write that reaches the journal's window is handed to the journal controller. -/
theorem exec_writesJournal {s : State} {r : Regions} {i : Instr} {t : WriteTxn} {n : Fin 8}
    (h : WritesJournal s r i t n) :
    exec i s = .next (report s (journalWrite t (s.touched n))) := by
  obtain ⟨hi, ⟨ht, hc, hr, -⟩, hb, h1, h2, hj, e, he, hk, hx⟩ := h
  have ha : actOnWindow (.write t) e.index e.desc (s.touched n) = journalWrite t (s.touched n) := by
    unfold actOnWindow
    rw [hk]
    simp only []
    rw [if_pos]
    unfold isLatchedJournal
    show (s.job.state != .noJob && s.job.journal == some e.index) = true
    simp [hx, hj]
  have hq : present (.write t) s = actOnWindow (.write t) e.index e.desc (s.touched n) := by
    rw [present_routed ht hc hb, routed_window (p := .write t) hr h1 h2]
    unfold windowAccess
    rw [show cacheHit s.cache (byteAddr (ProcTxn.write t).addr) = some (n, e) from he]
    rfl
  rw [exec_presentsWrite hi, hq, ha]

/-! ### The holders and the mask (R31) -/

/-- Storing words changes the holders and the mask alone. -/
theorem storeWords_frame : ∀ (ws : List WriteWord) (j : Job) (pos : Nat), storeWords j pos ws =
    { j with holders := (storeWords j pos ws).holders, mask := (storeWords j pos ws).mask }
  | [], _, _ => rfl
  | w :: ws, j, pos => by
    unfold storeWords
    rw [storeWords_frame ws]

theorem positionBit_get (pos : Fin 8) (i : Fin 8) :
    (1#8 <<< (pos.val % 8)).getLsbD i.val = decide (i = pos) := by
  revert pos i; decide

/-- The words stored stand in their holders with their mask bits set; the others are as they were. -/
theorem storeWords_spec : ∀ (ws : List WriteWord) (j : Job) (pos : Nat) (i : Fin 8),
    pos + ws.length ≤ 8 →
    (pos ≤ i.val ∧ i.val < pos + ws.length →
        ∃ w, ws[i.val - pos]? = some w ∧ (storeWords j pos ws).holders[i] = w.data)
    ∧ (¬(pos ≤ i.val ∧ i.val < pos + ws.length) → (storeWords j pos ws).holders[i] = j.holders[i])
    ∧ (storeWords j pos ws).mask.getLsbD i.val =
        (j.mask.getLsbD i.val || decide (pos ≤ i.val ∧ i.val < pos + ws.length))
  | [], j, pos, i, _ => by
    refine ⟨fun h => ?_, fun _ => rfl, ?_⟩
    · simp only [List.length_nil] at h
      omega
    · rw [decide_eq_false (by simp only [List.length_nil]; omega), Bool.or_false]
      rfl
  | w :: ws, j, pos, i, h => by
    unfold storeWords
    simp only [List.length_cons] at h ⊢
    have hp : pos % 8 = pos := by omega
    obtain ⟨h1, h2, h3⟩ := storeWords_spec ws
      { j with holders := j.holders.set (Fin.ofNat 8 pos) w.data
               mask := j.mask ||| (1#8 <<< (pos % 8)) } (pos + 1) i (by omega)
    refine ⟨fun hh => ?_, fun hh => ?_, ?_⟩
    · by_cases hi : i.val = pos
      · refine ⟨w, by simp [hi], ?_⟩
        rw [h2 (by omega)]
        simp [hi, Fin.ofNat, hp]
      · obtain ⟨w', e1, e2⟩ := h1 (by omega)
        refine ⟨w', ?_, e2⟩
        rw [show i.val - pos = (i.val - (pos + 1)) + 1 by omega, List.getElem?_cons_succ]
        exact e1
    · rw [h2 (by omega)]
      have hne : (Fin.ofNat 8 pos).val ≠ i.val := by
        simp only [Fin.ofNat, hp]
        omega
      exact Vector.getElem_set_ne (Fin.ofNat 8 pos).isLt i.isLt hne
    · rw [h3]
      have e := positionBit_get ⟨pos, by omega⟩ i
      simp only [BitVec.getLsbD_or]
      rw [e, Bool.or_assoc]
      congr 1
      rw [Bool.eq_iff_iff]
      simp [Fin.ext_iff]
      omega

/-- The mask is complete when every position is set (R34). -/
theorem mask_complete_iff (m : BitVec 8) : m = 0xFF#8 ↔ ∀ j : Fin 8, m.getLsbD j.val = true := by
  revert m; decide

/-- A write in one block stays within the eight positions of a record. -/
theorem WritesJournal.span {s : State} {r : Regions} {i : Instr} {t : WriteTxn} {n : Fin 8}
    (h : WritesJournal s r i t n) : t.addr.toNat % 8 + (txnWords t).length ≤ 8 := by
  have h1 := h.2.2.1
  unfold inOneBlock at h1
  rw [decide_eq_true_eq] at h1
  rw [show (ProcTxn.write t).count = (txnWords t).length from rfl,
    show (ProcTxn.write t).addr = t.addr from rfl, byteAddr_toNat] at h1
  omega

/-! ### The cases of a journal write (R30 to R32) -/

theorem allWhole_iff (ws : List WriteWord) :
    ws.all wholeWord = true ↔ ∀ w ∈ ws, w.enables = 0xF#4 := by
  simp [List.all_eq_true, wholeWord]

/-- The job as a whole write into the frontier's slot leaves it before any attempt. -/
def storedJob (s : State) (t : WriteTxn) : Job :=
  storeWords s.job (t.addr.toNat % 8) (txnWords t)

theorem journalWrite_stores {s : State} {t : WriteTxn} (h : StoresWhole s t) :
    journalWrite t s =
      if (storedJob s t).mask = 0xFF#8 then attemptCommit (.write t) (s.setJob (storedJob s t))
      else (s.setJob (storedJob s t)).answer (.done []) := by
  obtain ⟨h1, h2, h3⟩ := h
  unfold journalWrite
  rw [if_neg (not_not.mpr h1), if_neg (by rw [(allWhole_iff _).mpr h2]; decide)]
  show (if journalSlot s.job (byteAddr t.addr) = frontierSlot s.job then _ else _) = _
  rw [if_pos (by exact h3)]
  rfl

theorem journalWrite_noJob {s : State} {t : WriteTxn} (h : s.job.state ≠ .opened) :
    journalWrite t s = s.refuse .noJob (.write t) := by
  unfold journalWrite
  rw [if_pos h]

theorem journalWrite_partial {s : State} {t : WriteTxn} (h : s.job.state = .opened)
    (hw : ∃ w ∈ txnWords t, w.enables ≠ 0xF#4) :
    journalWrite t s = s.refuse .partialWord (.write t) := by
  unfold journalWrite
  rw [if_neg (not_not.mpr h), if_pos]
  obtain ⟨w, hm, he⟩ := hw
  rw [Bool.not_eq_true', ← Bool.not_eq_true, allWhole_iff]
  exact fun hh => he (hh w hm)

theorem journalWrite_elsewhere {s : State} {t : WriteTxn} (h : s.job.state = .opened)
    (hw : ∀ w ∈ txnWords t, w.enables = 0xF#4)
    (hs : journalSlot s.job (byteAddr t.addr) ≠ frontierSlot s.job) :
    journalWrite t s =
      if latestDistance s.job (journalSlot s.job (byteAddr t.addr))
          ≤ min s.job.counter.toNat s.job.slots then s.refuse .rewrite (.write t)
      else s.refuse .gap (.write t) := by
  unfold journalWrite
  rw [if_neg (not_not.mpr h), if_neg (by rw [(allWhole_iff _).mpr hw]; decide)]
  show (if journalSlot s.job (byteAddr t.addr) = frontierSlot s.job then _ else _) = _
  rw [if_neg hs]

/-- The distance from a slot's latest sequence to the frontier is the one number of 1..N that leads
from the slot to the frontier's (R32). -/
theorem latestDistance_eq {j : Job} {slot d : Nat} (hs : slot < j.slots) (h1 : 1 ≤ d)
    (h2 : d ≤ j.slots) (h : (slot + d) % j.slots = j.frontier.toNat % j.slots) :
    latestDistance j slot = d := by
  have e : (j.frontier.toNat + j.slots - slot) % j.slots = d % j.slots := by
    have : slot + (j.frontier.toNat + j.slots - slot) ≡ slot + d [MOD j.slots] := by
      show _ % _ = _ % _
      rw [h, show slot + (j.frontier.toNat + j.slots - slot) = j.frontier.toNat + j.slots by omega]
      simp
    exact Nat.ModEq.add_left_cancel' slot this
  unfold latestDistance
  simp only [e]
  rcases Nat.lt_or_ge d j.slots with hh | hh
  · rw [Nat.mod_eq_of_lt hh, if_neg (by omega)]
  · rw [show d = j.slots by omega, Nat.mod_self, if_pos rfl]

/-! ### The end of a commit (R41, R42, R86) -/

/-- A join of one station, as a change of the stations and the owed sets alone. -/
theorem joinLive_stations_get (s : State) (k j : StationId) : (s.joinLive k).stations[j] =
    if j = k ∧ s.stations[k].feed = .catchup ∧ s.stations[k].post = s.job.frontier
        ∧ s.job.inFlight = false then { s.stations[k] with feed := .live }
    else s.stations[j] := by
  unfold State.joinLive
  by_cases hc : s.stations[k].feed = .catchup ∧ s.stations[k].post = s.job.frontier
      ∧ s.job.inFlight = false
  · rw [if_pos hc]
    by_cases hj : j = k
    · subst hj
      rw [if_pos ⟨rfl, hc⟩]
      exact get_set_self _ _ _
    · rw [if_neg (fun h => hj h.1)]
      exact get_set_ne _ _ _ _ hj
  · rw [if_neg hc, if_neg (fun h => hc h.2)]

theorem joinLive_owed_get (s : State) (k : StationId) (r : RecordId) :
    (s.joinLive k).writer.owed.get r = s.writer.owed.get r
      ||| if r = .station k ∧ s.stations[k].feed = .catchup ∧ s.stations[k].post = s.job.frontier
        ∧ s.job.inFlight = false then eventBit k else 0#32 := by
  unfold State.joinLive
  by_cases hc : s.stations[k].feed = .catchup ∧ s.stations[k].post = s.job.frontier
      ∧ s.job.inFlight = false
  · rw [if_pos hc]
    unfold State.oweEvent
    rw [owe_get]
    by_cases hr : r = .station k
    · rw [if_pos hr, if_pos ⟨hr, hc⟩]
      rfl
    · rw [if_neg hr, if_neg (fun h => hr h.1), BitVec.or_zero]
      rfl
  · rw [if_neg hc, if_neg (fun h => hc h.2), BitVec.or_zero]

theorem joinFold_spec : ∀ (l : List StationId) (s : State), l.Nodup →
    (∀ j : StationId, (l.foldl State.joinLive s).stations[j] =
      if j ∈ l ∧ s.stations[j].feed = .catchup ∧ s.stations[j].post = s.job.frontier
        ∧ s.job.inFlight = false then { s.stations[j] with feed := .live } else s.stations[j])
    ∧ (∀ j : StationId, (l.foldl State.joinLive s).writer.owed.get (.station j) =
      s.writer.owed.get (.station j)
        ||| if j ∈ l ∧ s.stations[j].feed = .catchup ∧ s.stations[j].post = s.job.frontier
          ∧ s.job.inFlight = false then eventBit j else 0#32)
    ∧ (l.foldl State.joinLive s).writer.owed.job = s.writer.owed.job
    ∧ l.foldl State.joinLive s = { s with
        stations := (l.foldl State.joinLive s).stations
        writer := (l.foldl State.joinLive s).writer }
  | [], s, _ => ⟨fun j => by simp, fun j => by simp, rfl, rfl⟩
  | k :: l, s, hn => by
    obtain ⟨hk, hl⟩ := List.nodup_cons.mp hn
    obtain ⟨h1, h2, h3, h4⟩ := joinFold_spec l (s.joinLive k) hl
    have hjob : (s.joinLive k).job = s.job := joinLive_job s k
    rw [List.foldl_cons]
    refine ⟨fun j => ?_, fun j => ?_, ?_, ?_⟩
    · rw [h1, hjob, joinLive_stations_get]
      by_cases hj : j = k
      · subst hj
        simp [hk]
      · simp [hj]
    · rw [h2, hjob, joinLive_stations_get, joinLive_owed_get]
      by_cases hj : j = k
      · subst hj
        simp [hk]
      · rw [if_neg (c := RecordId.station j = .station k ∧ _)
          (fun h => hj (RecordId.station.inj h.1)), BitVec.or_zero]
        simp [hj]
    · rw [h3]
      have e := joinLive_owed_get s k .job
      rw [if_neg (fun h => by simp at h), BitVec.or_zero] at e
      exact e
    · rw [h4, joinLive_frame s k]

theorem stationOrder_complete (k : StationId) : k ∈ stationOrder := by
  revert k; decide

theorem stationOrder_nodup : stationOrder.Nodup := by decide

/-- The set that a new gate entry is created with (R93). -/
theorem membersPast_get (v : Vector Station 6) (m : StationSet) (g : Seq) (k : StationId) :
    inSet k (membersPast v m g) = (inSet k m && seqBefore g v[k].done) := by
  have key : ∀ (l : List StationId) (d : StationSet),
      inSet k (l.foldl (fun m' j =>
        if inSet j m && seqBefore g v[j].done then m' ||| stationBit j else m') d) =
      (inSet k d || (decide (k ∈ l) && (inSet k m && seqBefore g v[k].done))) := by
    intro l
    induction l with
    | nil => intro d; simp
    | cons j l ih =>
      intro d
      rw [List.foldl_cons, ih]
      by_cases hj : k = j
      · subst hj
        have : inSet k (d ||| stationBit k) = true := by
          unfold inSet
          rw [BitVec.getLsbD_or, stationBit_get]
          simp
        by_cases hc : (inSet k m && seqBefore g v[k].done) = true
        · rw [if_pos hc, this, hc]
          simp
        · rw [if_neg hc, Bool.eq_false_iff.mpr hc]
          simp
      · have : inSet k (if inSet j m && seqBefore g v[j].done then d ||| stationBit j else d)
            = inSet k d := by
          split
          · unfold inSet
            rw [BitVec.getLsbD_or, stationBit_get]
            simp [hj]
          · rfl
        rw [this]
        simp [hj]
  unfold membersPast
  rw [key]
  have h0 : inSet k 0#6 = false := by simp [inSet]
  rw [h0]
  simp [stationOrder_complete]

/-- A SYNC record's gate entry and an END record's bit: the gate and the owed sets alone. -/
theorem oweEnd_insertSync (s : State) : ∃ g w, oweEnd (insertSync s) = { s with gate := g, writer := w }
    ∧ g = (if recSync s.job.holders then s.gate.insert s.stations s.job.frontier else s.gate)
    ∧ w.owed.job = s.writer.owed.job
        ||| (if recKind s.job.holders = some .endJob then jobChangeBit else 0#32)
    ∧ ∀ k : StationId, w.owed.get (.station k) = s.writer.owed.get (.station k) := by
  have e : insertSync s = { s with
      gate := if recSync s.job.holders then s.gate.insert s.stations s.job.frontier else s.gate } := by
    unfold insertSync
    split <;> rfl
  rw [e]
  unfold oweEnd
  simp only []
  split
  · exact ⟨_, _, rfl, rfl, rfl, fun k => rfl⟩
  · exact ⟨_, _, rfl, rfl, BitVec.or_zero.symm, fun k => rfl⟩

/-- What the end of a commit leaves. -/
theorem commitEnd_spec (s : State) : CommitEnds s (commitEnd s) := by
  obtain ⟨g, w, e, hg, hw, hk⟩ := oweEnd_insertSync s
  obtain ⟨h1, h2, h3, h4⟩ := joinFold_spec stationOrder
    (({ s with gate := g, writer := w } : State).setJob (committedJob s.job)) stationOrder_nodup
  have he : commitEnd s = (stationOrder.foldl State.joinLive
      (({ s with gate := g, writer := w } : State).setJob (committedJob s.job))).answer (.done []) := by
    unfold commitEnd joinAll
    rw [e]
  rw [he]
  generalize List.foldl State.joinLive _ stationOrder = F at *
  rw [h4]
  refine ⟨rfl, rfl, rfl, ?_, ?_, fun k => ?_, ?_, fun k => ?_⟩
  · intro hs
    rw [hs] at hg
    exact hg
  · intro hs
    rw [hs] at hg
    subst hg
    refine ⟨rfl, membersPast s.stations s.gate.members s.job.frontier, fun k => ?_, rfl⟩
    rw [membersPast_get, Bool.and_eq_true]
  · exact (h1 k).trans (by simp [stationOrder_complete, committedJob, Job.emptyAssembler])
  · exact h3.trans hw
  · refine (h2 k).trans ?_
    simp [stationOrder_complete, committedJob, Job.emptyAssembler, hk]

end Sys2Proof.Machine
end

