-- ==== Sys2Proof/Laws/Commands.lean ====
section
/-! SUPPORT. The way of a command word from the row to the command it starts: every word of the write
is taken, the words before it are applied, and the command starts. -/

namespace Sys2Proof.Machine

/-! ### Where the words of a block lie -/

theorem pageWord_station (k : StationId) (n : Fin 16) :
    pageWord (stationBlockOffset k n.val) = .station k n := by
  have hk := k.isLt
  have hn := n.isLt
  unfold pageWord stationBlockOffset
  rw [if_neg (by omega), if_pos (by omega)]
  congr 1
  · apply Fin.ext
    simp only [Fin.ofNat]
    omega
  · apply Fin.ext
    simp only [Fin.ofNat]
    omega

theorem pageWord_job (n : Fin 16) : pageWord (jobBlockOffset n.val) = .job n := by
  have hn := n.isLt
  unfold pageWord jobBlockOffset
  rw [if_neg (by omega), if_neg (by omega), if_pos (by omega)]
  congr 1
  apply Fin.ext
  simp only [Fin.ofNat]
  omega

theorem asWhole_whole (w : Word) : wholeWord (asWhole w) = true := by
  show ((0xF#4 : BitVec 4) == 0xF#4) = true
  rfl

theorem stationBusy_iff (st : Station) : stationBusy st = false ↔ st.progress = .idle := by
  unfold stationBusy
  cases st.progress <;> simp

/-- A whole word of a station's block is taken: a locked word of a station that is OFF, an unlocked
one, and the command word of an idle slot (R159, R161). -/
theorem stationDecision_taken {s : State} {k : StationId} {n : Fin 16} (w : Word)
    (h1 : n.val ≤ 12 → s.stations[k].feed = .off) (h2 : n.val = 15 → s.stations[k].progress = .idle) :
    wordDecision s (stationBlockOffset k n.val) (asWhole w) = .taken := by
  unfold wordDecision
  rw [asWhole_whole, if_pos rfl, pageWord_station]
  unfold areaDecision lockedWord
  simp only [decide_eq_true_eq]
  by_cases hn : n.val ≤ 12
  · rw [if_pos hn, if_pos (h1 hn)]
  · rw [if_neg hn]
    by_cases hc : n = 15
    · rw [if_pos hc, (stationBusy_iff _).mpr (h2 (by rw [hc]; rfl))]
      rfl
    · rw [if_neg hc]

theorem jobDecision_taken {s : State} {n : Fin 16} (w : Word)
    (h1 : n.val = 0 → s.job.state = .noJob) (h2 : n.val = 15 → s.job.opening = none) :
    wordDecision s (jobBlockOffset n.val) (asWhole w) = .taken := by
  unfold wordDecision
  rw [asWhole_whole, if_pos rfl, pageWord_job]
  unfold areaDecision
  simp only []
  by_cases hn : n = 0
  · rw [if_pos hn, if_pos (h1 (by rw [hn]; rfl))]
  · rw [if_neg hn]
    by_cases hc : n = 15
    · rw [if_pos hc]
      unfold jobBusy
      rw [h2 (by rw [hc]; rfl)]
      rfl
    · rw [if_neg hc]

/-- The decisions on a run of words from word `n` of a block on, when each word is taken. -/
theorem decisions_run (s : State) (base : Nat) (p : Nat → Prop)
    (hp : ∀ (n : Nat) (w : Word), p n → wordDecision s (base + 4 * n) (asWhole w) = .taken) :
    ∀ (ws : List Word) (n : Nat), (∀ i, n ≤ i → i < n + ws.length → p i) →
      ∀ d ∈ decisions s (base + 4 * n) (ws.map asWhole), d = .taken
  | [], _, _ => by intro d hd; simp [decisions] at hd
  | w :: ws, n, h => by
    intro d hd
    simp only [List.map_cons, decisions, List.mem_cons] at hd
    rcases hd with rfl | hd
    · exact hp n w (h n (Nat.le_refl n) (by simp only [List.length_cons]; omega))
    · rw [show base + 4 * n + 4 = base + 4 * (n + 1) by omega] at hd
      exact decisions_run s base p hp ws (n + 1)
        (fun i h1 h2 => h i (by omega) (by simp only [List.length_cons]; omega)) d hd

/-! ### From the row to the command -/

/-- A taken write of the command word of station k starts its command, once the words before it are
applied, and is forwarded to memory (R142, R161). -/
theorem stationCommand_starts {s : State} {r : Regions} {k : StationId} {pre : List Word} (w : Word)
    (hp : PortTakes s r) (ht : StationWriteTaken s k pre) :
    stationCommand k pre w s = .next (report s
      ((startStationCommand k w (s.atStationCommand k pre w)).forwardsPage
        (writeUpTo s (stationBlockOffset k 15) pre w))) := by
  obtain ⟨htk, hc, hr, hal⟩ := hp
  obtain ⟨hl, hf, hi⟩ := ht
  have hk := k.isLt
  obtain ⟨e1, e2, e3, e4⟩ := writeUpTo_spec (s := s) (r := r) hr hal (n := stationBlockOffset k 15)
    (pre := pre) w (by unfold stationBlockOffset; omega) (by unfold stationBlockOffset; omega)
    (by unfold stationBlockOffset; omega)
  have eo : stationBlockOffset k 15 - 4 * pre.length = stationBlockOffset k (15 - pre.length) := by
    unfold stationBlockOffset
    omega
  have el : stationBlockOffset k (15 - pre.length) + 4 * pre.length = stationBlockOffset k 15 := by
    unfold stationBlockOffset
    omega
  have hd : ∀ d ∈ decisions s (pageOffset (byteAddr (writeUpTo s (stationBlockOffset k 15) pre w).addr))
      (txnWords (writeUpTo s (stationBlockOffset k 15) pre w)), d = .taken := by
    rw [e3, e1, eo, show pre.map asWhole ++ [asWhole w] = (pre ++ [w]).map asWhole by simp]
    unfold stationBlockOffset
    refine decisions_run s _ (fun n => n ≤ 15 ∧ (n ≤ 12 → s.stations[k].feed = .off))
      (fun n v hn => ?_) (pre ++ [w]) (15 - pre.length) (fun i h1 h2 => ?_)
    · exact stationDecision_taken (n := ⟨n, by omega⟩) v hn.2 (fun _ => hi)
    · simp only [List.length_append, List.length_cons, List.length_nil] at h2
      refine ⟨by omega, fun h3 => ?_⟩
      rcases hf with hf | hf
      · omega
      · exact hf
  unfold stationCommand presented goOn
  rw [present_routed (p := .write _) htk hc e4, routed_page (p := .write _) hr e2]
  show Host.Outcome.next (report s (pageWrite _ s)) = _
  rw [pageWrite_taken hd, e3, e1, applyWords_append, List.length_map, eo, el]
  unfold applyWords applyWords
  rw [show stationBlockOffset k 15 = stationBlockOffset k (15 : Fin 16).val from rfl, pageWord_station]
  rfl

/-- A taken write of the job command word starts its command. -/
theorem jobCommand_starts {s : State} {r : Regions} {pre : List Word} (w : Word)
    (hp : PortTakes s r) (hl : pre.length ≤ 7) (hi : s.job.opening = none) :
    jobCommand pre w s = .next (report s
      ((startJobCommand w (s.atJobCommand pre w)).forwardsPage
        (writeUpTo s (jobBlockOffset 15) pre w))) := by
  obtain ⟨htk, hc, hr, hal⟩ := hp
  obtain ⟨e1, e2, e3, e4⟩ := writeUpTo_spec (s := s) (r := r) hr hal (n := jobBlockOffset 15)
    (pre := pre) w (by decide) (by decide) (by unfold jobBlockOffset; omega)
  have eo : jobBlockOffset 15 - 4 * pre.length = jobBlockOffset (15 - pre.length) := by
    unfold jobBlockOffset
    omega
  have el : jobBlockOffset (15 - pre.length) + 4 * pre.length = jobBlockOffset 15 := by
    unfold jobBlockOffset
    omega
  have hd : ∀ d ∈ decisions s (pageOffset (byteAddr (writeUpTo s (jobBlockOffset 15) pre w).addr))
      (txnWords (writeUpTo s (jobBlockOffset 15) pre w)), d = .taken := by
    rw [e3, e1, eo, show pre.map asWhole ++ [asWhole w] = (pre ++ [w]).map asWhole by simp]
    unfold jobBlockOffset
    refine decisions_run s _ (fun n => n ≤ 15 ∧ 1 ≤ n)
      (fun n v hn => ?_) (pre ++ [w]) (15 - pre.length) (fun i h1 h2 => ?_)
    · exact jobDecision_taken (n := ⟨n, by omega⟩) v (fun h => absurd h (by show n ≠ 0; omega))
        (fun _ => hi)
    · simp only [List.length_append, List.length_cons, List.length_nil] at h2
      omega
  unfold jobCommand presented goOn
  rw [present_routed (p := .write _) htk hc e4, routed_page (p := .write _) hr e2]
  show Host.Outcome.next (report s (pageWrite _ s)) = _
  rw [pageWrite_taken hd, e3, e1, applyWords_append, List.length_map, eo, el]
  unfold applyWords applyWords
  rw [show jobBlockOffset 15 = jobBlockOffset (15 : Fin 16).val from rfl, pageWord_job]
  rfl

/-! ### What the words before a command word change -/

/-- What a command's checks read of station j, the error log, and the rest of the writer stand from `s`
to `t`, and the marks of `s` with them. -/
def KeepsChecks (j : StationId) (s t : State) : Prop :=
  t.stations[j].feed = s.stations[j].feed ∧ t.stations[j].progress = s.stations[j].progress
    ∧ t.job = s.job ∧ t.log = s.log ∧ t.writer.pending = s.writer.pending
    ∧ t.writer.write = s.writer.write ∧ t.writer.position = s.writer.position
    ∧ ∀ r, s.writer.marks.get r = true → t.writer.marks.get r = true

theorem KeepsChecks.refl (j : StationId) (s : State) : KeepsChecks j s s :=
  ⟨rfl, rfl, rfl, rfl, rfl, rfl, rfl, fun _ h => h⟩

theorem KeepsChecks.trans {j : StationId} {s t u : State} (h : KeepsChecks j s t)
    (g : KeepsChecks j t u) : KeepsChecks j s u := by
  obtain ⟨a1, a2, a3, a4, a5, a6, a7, a8⟩ := h
  obtain ⟨b1, b2, b3, b4, b5, b6, b7, b8⟩ := g
  exact ⟨b1.trans a1, b2.trans a2, b3.trans a3, b4.trans a4, b5.trans a5, b6.trans a6, b7.trans a7,
    fun r hr => b8 r (a8 r hr)⟩

theorem KeepsChecks.of_eq {j : StationId} {s t : State} (h1 : t.stations = s.stations)
    (h2 : t.job = s.job) (h3 : t.log = s.log) (h4 : t.writer = s.writer) : KeepsChecks j s t := by
  unfold KeepsChecks
  rw [h1, h2, h3, h4]
  exact ⟨rfl, rfl, rfl, rfl, rfl, rfl, rfl, fun _ h => h⟩

theorem mark_keeps (s : State) (r : RecordId) (j : StationId) : KeepsChecks j s (s.mark r) :=
  ⟨rfl, rfl, rfl, rfl, rfl, rfl, rfl, fun q hq => by rw [mark_get, hq, Bool.or_true]⟩

/-- A break edge keeps what a command's checks read, and the rest of the writer. -/
theorem breakDue_keeps (s : State) (k j : StationId) : KeepsChecks j s (s.breakDue k) := by
  have key : ∀ t : State, (t.breakEdge k).stations[j].feed = t.stations[j].feed
      ∧ (t.breakEdge k).stations[j].progress = t.stations[j].progress
      ∧ (t.breakEdge k).job = t.job ∧ (t.breakEdge k).log = t.log
      ∧ (t.breakEdge k).writer.pending = t.writer.pending
      ∧ (t.breakEdge k).writer.write = t.writer.write
      ∧ (t.breakEdge k).writer.position = t.writer.position
      ∧ (∀ r, t.writer.marks.get r = true → (t.breakEdge k).writer.marks.get r = true) := by
    intro t
    have hheld : ∀ u : State, (u.heldBy k .breakLine).stations[j].feed = u.stations[j].feed
        ∧ (u.heldBy k .breakLine).stations[j].progress = u.stations[j].progress
        ∧ (u.heldBy k .breakLine).job = u.job ∧ (u.heldBy k .breakLine).log = u.log
        ∧ (u.heldBy k .breakLine).writer = u.writer := by
      intro u
      unfold State.heldBy
      simp only []
      split
      · refine ⟨?_, ?_, rfl, rfl, rfl⟩
        · show (Vector.set u.stations k _)[j].feed = _
          by_cases hj : j = k
          · subst hj
            rw [get_set_self]
          · rw [get_set_ne _ _ _ _ hj]
        · show (Vector.set u.stations k _)[j].progress = _
          by_cases hj : j = k
          · subst hj
            rw [get_set_self]
          · rw [get_set_ne _ _ _ _ hj]
      · exact ⟨rfl, rfl, rfl, rfl, rfl⟩
    have hcount : (t.countBreak k).stations[j].feed = t.stations[j].feed
        ∧ (t.countBreak k).stations[j].progress = t.stations[j].progress := by
      unfold State.countBreak State.setCounters
      rw [setStation_stations_get]
      by_cases hj : j = k
      · subst hj
        rw [if_pos rfl]
        exact ⟨rfl, rfl⟩
      · rw [if_neg hj]
        exact ⟨rfl, rfl⟩
    unfold State.breakEdge
    rw [requestHeld_weigh]
    generalize hu : ((t.countBreak k).mark (.station k)).oweEvent k = u
    have u1 : u.stations = (t.countBreak k).stations := by rw [← hu]; rfl
    have u2 : u.job = t.job := by rw [← hu]; rfl
    have u3 : u.log = t.log := by rw [← hu]; rfl
    have u4 : u.writer.pending = t.writer.pending := by rw [← hu]; rfl
    have u5 : u.writer.write = t.writer.write := by rw [← hu]; rfl
    have u6 : u.writer.position = t.writer.position := by rw [← hu]; rfl
    have u7 : ∀ r, t.writer.marks.get r = true → u.writer.marks.get r = true := by
      intro r hr
      rw [← hu]
      show ((t.countBreak k).mark (.station k)).writer.marks.get r = true
      rw [mark_get, show (t.countBreak k).writer = t.writer from rfl, hr, Bool.or_true]
    obtain ⟨a1, a2, a3, a4, a5⟩ := hheld u
    have fin : ∀ v : State, (v = (u.heldBy k .breakLine).oweEvent k ∨ v = u.heldBy k .breakLine) →
        v.stations[j].feed = t.stations[j].feed ∧ v.stations[j].progress = t.stations[j].progress
        ∧ v.job = t.job ∧ v.log = t.log ∧ v.writer.pending = t.writer.pending
        ∧ v.writer.write = t.writer.write ∧ v.writer.position = t.writer.position
        ∧ (∀ r, t.writer.marks.get r = true → v.writer.marks.get r = true) := by
      intro v hv
      have b1 : v.stations = (u.heldBy k .breakLine).stations := by rcases hv with rfl | rfl <;> rfl
      have b2 : v.job = (u.heldBy k .breakLine).job := by rcases hv with rfl | rfl <;> rfl
      have b3 : v.log = (u.heldBy k .breakLine).log := by rcases hv with rfl | rfl <;> rfl
      have b4 : v.writer.pending = u.writer.pending := by
        rcases hv with rfl | rfl
        · show (u.heldBy k .breakLine).writer.pending = _
          rw [a5]
        · rw [a5]
      have b5 : v.writer.write = u.writer.write := by
        rcases hv with rfl | rfl
        · show (u.heldBy k .breakLine).writer.write = _
          rw [a5]
        · rw [a5]
      have b6 : v.writer.position = u.writer.position := by
        rcases hv with rfl | rfl
        · show (u.heldBy k .breakLine).writer.position = _
          rw [a5]
        · rw [a5]
      have b7 : v.writer.marks = u.writer.marks := by
        rcases hv with rfl | rfl
        · show (u.heldBy k .breakLine).writer.marks = _
          rw [a5]
        · rw [a5]
      refine ⟨?_, ?_, b2.trans (a3.trans u2), b3.trans (a4.trans u3), b4.trans u4, b5.trans u5,
        b6.trans u6, fun r hr => ?_⟩
      · rw [b1, a1, u1]
        exact hcount.1
      · rw [b1, a2, u1]
        exact hcount.2
      · rw [b7]
        exact u7 r hr
    split
    · exact fin _ (Or.inl rfl)
    · exact fin _ (Or.inr rfl)
  unfold State.breakDue
  split
  · split
    · unfold State.breakQualifies
      simp only []
      have hq : KeepsChecks j s ((s.setBreak k s.breaks[k].qualify).mark (.station k)) :=
        (KeepsChecks.of_eq rfl rfl rfl rfl).trans (mark_keeps (s.setBreak k s.breaks[k].qualify) _ j)
      split
      · exact hq.trans (key _)
      · exact hq
    · exact KeepsChecks.refl j s
  · exact KeepsChecks.refl j s

/-- A taken word of a station's block other than the command word keeps what a command's checks
read. -/
theorem applyStationWord_keeps (s : State) (k j : StationId) (n : Fin 16) (v : Word) (h : n ≠ 15) :
    KeepsChecks j s (applyStationWord k n v s) := by
  have hd : KeepsChecks j s (if n = 14 then s.breakDue k else s) := by
    split
    · exact breakDue_keeps s k j
    · exact KeepsChecks.refl j s
  unfold applyStationWord
  generalize (if n = 14 then s.breakDue k else s) = d at hd
  have hs : KeepsChecks j s (setStationShadow d k n v) :=
    hd.trans (KeepsChecks.of_eq rfl rfl rfl rfl)
  simp only []
  split
  · refine hs.trans ?_
    unfold copyLine
    split <;> exact KeepsChecks.of_eq rfl rfl rfl rfl
  · split
    · refine (hs.trans ?_).trans (breakDue_keeps _ k j)
      unfold restartAckTimer
      split <;> exact KeepsChecks.of_eq rfl rfl rfl rfl
    · exact hs

/-- The words before a command word keep what its checks read. -/
theorem applyRun_keeps (k j : StationId) : ∀ (ws : List Word) (n : Nat) (s : State),
    n + ws.length ≤ 15 →
    KeepsChecks j s (applyWords (stationBlockOffset k n) (ws.map asWhole) s)
  | [], _, s, _ => KeepsChecks.refl j s
  | w :: ws, n, s, h => by
    simp only [List.length_cons] at h
    have hn : n < 16 := by omega
    have a := applyRun_keeps k j ws (n + 1) (applyStationWord k ⟨n, hn⟩ w s) (by omega)
    have b := applyStationWord_keeps s k j ⟨n, hn⟩ w
      (fun e => by have := congrArg Fin.val e; simp at this; omega)
    have e : applyWords (stationBlockOffset k n) ((w :: ws).map asWhole) s =
        applyWords (stationBlockOffset k (n + 1)) (ws.map asWhole)
          (applyStationWord k ⟨n, hn⟩ w s) := by
      rw [List.map_cons]
      conv_lhs => unfold applyWords
      rw [show stationBlockOffset k n = stationBlockOffset k (⟨n, hn⟩ : Fin 16).val from rfl,
        pageWord_station]
      rfl
    rw [e]
    exact b.trans a

/-- As a station's command word acts, what its checks read is what stood before the write. -/
theorem atStationCommand_keeps (s : State) (k j : StationId) (pre : List Word) (w : Word)
    (h : pre.length ≤ 7) : KeepsChecks j s (s.atStationCommand k pre w) :=
  (applyRun_keeps k j pre (15 - pre.length) s (by omega)).trans (KeepsChecks.of_eq rfl rfl rfl rfl)

/-! ### The end of a command -/

theorem Owed.set_set (o : Owed) (r : RecordId) (a b : Word) : (o.set r a).set r b = o.set r b := by
  cases r with
  | station k =>
    unfold Owed.set
    simp only []
    rw [vector_set_set]
  | summary => rfl
  | errorLog => rfl
  | job => rfl

/-- Bits owed to one record twice. -/
theorem Owed.plus_plus (o : Owed) (r : RecordId) (a b : Word) :
    (o.plus r a).plus r b = o.plus r (a ||| b) := by
  unfold Owed.plus
  rw [Owed.get_set_self, Owed.set_set, BitVec.or_assoc]

/-- A station command that completes within its write, as the statements have it. -/
theorem stationCommandEnds_of {i : Instr} {s v : State} {k : StationId} {t : WriteTxn}
    {code : BitVec 4} {result : Result} {events : Word}
    (h : exec i s = .next (report s
      ((State.completeStation (v.owe (.station k) events) k code result).forwardsPage t)))
    (h1 : v.writer.pending = s.writer.pending) (h2 : v.writer.write = s.writer.write)
    (h3 : v.writer.position = s.writer.position)
    (h4 : ∀ r, s.writer.marks.get r = true → v.writer.marks.get r = true) :
    StationCommandEnds i s v k t code result events := by
  refine ⟨_, h, rfl, ?_, h1, h2, h3, fun r hr => ?_, fun r hr => ?_⟩
  · show ((v.writer.owed.plus (.station k) events).plus (.station k) (commandDoneBit k)) = _
    exact Owed.plus_plus _ _ _ _
  · rw [report_marks_get]
    show ((v.writer.marks.set (.station k) true).get r || _) = true
    by_cases hk : r = .station k
    · subst hk
      rw [Marks.get_set_self, Bool.true_or]
    · rw [Marks.get_set_ne _ _ _ _ hk, h4 r hr, Bool.true_or]
  · rw [List.mem_singleton] at hr
    subst hr
    rw [report_marks_get]
    show ((v.writer.marks.set (.station k) true).get (.station k) || _) = true
    rw [Marks.get_set_self, Bool.true_or]

/-- A station command whose start completes it at once. -/
theorem stationCommandEnds_taken {i : Instr} {s v : State} {r : Regions} {k : StationId}
    {pre : List Word} {w : Word} {code : BitVec 4} {result : Result} {events : Word}
    (hp : PortTakes s r) (ht : StationWriteTaken s k pre)
    (hi : exec i s = stationCommand k pre w s)
    (hs : startStationCommand k w (s.atStationCommand k pre w) =
      (v.owe (.station k) events).completeStation k code result)
    (hw : v.writer = (s.atStationCommand k pre w).writer) :
    StationCommandEnds i s v k (writeUpTo s (stationBlockOffset k 15) pre w) code result events := by
  obtain ⟨-, -, -, -, b, c, d, e⟩ := atStationCommand_keeps s k k pre w ht.1
  apply stationCommandEnds_of
  · rw [hi, stationCommand_starts w hp ht, hs]
  all_goals rw [hw]
  · exact b
  · exact c
  · exact d
  · exact e

/-! ### The fields of a command word (Tables 12-5 and 12-6) -/

theorem cmdCode_commandWord (code : BitVec 4) (arg : BitVec 28) :
    cmdCode (commandWord code arg) = code := by
  unfold cmdCode commandWord
  exact BitVec.extractLsb'_append_eq_right

theorem cmdCode_attachWord (spare : BitVec 12) (start : Seq) :
    cmdCode (attachWord spare start) = 1#4 := by
  unfold cmdCode attachWord
  exact BitVec.extractLsb'_append_eq_right

theorem cmdCode_openWord (spare : BitVec 7) (index : BitVec 5) (start : Seq) :
    cmdCode (openWord spare index start) = 1#4 := by
  unfold cmdCode openWord
  exact BitVec.extractLsb'_append_eq_right

end Sys2Proof.Machine
end

