-- ==== Sys2Proof/Laws/PerInstr.lean ====
section
/-! SUPPORT. Well-formedness as a bound on the shape of each command, one lemma for each constructor. -/

namespace Sys2Proof.Laws.WellFormedShape

/-- A transaction of at most eight words. -/
def txnFits (t : WriteTxn) : Prop := t.rest.length + 1 ≤ 8

/-- With its command word, at most eight words. -/
def preFits (pre : List Word) : Prop := pre.length + 1 ≤ 8

/-- The times of a course's changes rise from its beginning. -/
def courseFits (b : BusCourse) : Prop := List.IsChain (· < ·) (0 :: b.changes.map BusChange.after)

/-- The bounds on a command's lists and codes. -/
def Shape : Instr → Prop
  | .bootStretchTimeout got => got.length ≤ 16
  | .porstNegation levels => courseFits levels.bus
  | .bootArbitrationLost lost => lost.got.length ≤ 16 ∧ courseFits lost.bus
  | .processorWrite t => txnFits t
  | .journalWindowWrite t => txnFits t
  | .descriptorTableWrite t => txnFits t
  | .controlBlockWrite t => txnFits t
  | .forwardAnswer (.current _ (.ok data)) => data.length ≤ 8
  | .openJob pre _ _ _ => preFits pre
  | .closeJob pre _ => preFits pre
  | .jobBadCmd pre code _ => preFits pre ∧ 3 ≤ code.toNat
  | .attach _ pre _ _ => preFits pre
  | .detach _ pre _ => preFits pre
  | .reattach _ pre _ => preFits pre
  | .hold _ pre _ => preFits pre
  | .resume _ pre _ => preFits pre
  | .clear _ pre _ => preFits pre
  | .release _ pre _ => preFits pre
  | .stationBadCmd _ pre code _ => preFits pre ∧ 8 ≤ code.toNat
  | _ => True

/-- A command is well-formed exactly when its lists and codes are within their bounds. -/
def Statement (i : Instr) : Prop := i.wellFormed = true ↔ Shape i

theorem txnFits_iff (t : WriteTxn) : t.wellFormed = true ↔ txnFits t := by
  unfold WriteTxn.wellFormed txnFits
  rw [decide_eq_true_eq]
  omega

theorem preFits_iff (pre : List Word) : preWellFormed pre = true ↔ preFits pre := by
  unfold preWellFormed preFits
  rw [decide_eq_true_eq]
  omega

theorem bootFits_iff (got : List Byte) : bootBytesWellFormed got = true ↔ got.length ≤ 16 := by
  unfold bootBytesWellFormed
  exact decide_eq_true_iff

theorem changesRise_iff (t : Nat) (l : List BusChange) :
    changesRise t l = true ↔ List.IsChain (· < ·) (t :: l.map BusChange.after) := by
  induction l generalizing t with
  | nil => exact iff_of_true rfl (List.isChain_singleton t)
  | cons c rest ih =>
    rw [changesRise, Bool.and_eq_true, decide_eq_true_eq, ih, List.map_cons, List.isChain_cons_cons]

theorem courseFits_iff (b : BusCourse) : b.wellFormed = true ↔ courseFits b := changesRise_iff 0 _

theorem codeFits_iff (pre : List Word) (code : BitVec 4) (n : Nat) (h : n < 16) :
    (preWellFormed pre && decide (BitVec.ofNat 4 n ≤ code)) = true ↔
      preFits pre ∧ n ≤ code.toNat := by
  rw [Bool.and_eq_true, preFits_iff, decide_eq_true_eq, BitVec.le_def, BitVec.toNat_ofNat,
    Nat.mod_eq_of_lt h]

theorem trivial_iff : (true = true ↔ True) := iff_of_true rfl trivial

theorem powerOnReset : Statement .powerOnReset := trivial_iff

theorem porstNegation (levels : InputLevels) : Statement (.porstNegation levels) :=
  courseFits_iff levels.bus

theorem busReset : Statement .busReset := trivial_iff

theorem busrstNegation : Statement .busrstNegation := trivial_iff

theorem bootAttempt : Statement .bootAttempt := trivial_iff

theorem bootBusBusyTimeout : Statement .bootBusBusyTimeout := trivial_iff

theorem bootDeviceNack : Statement .bootDeviceNack := trivial_iff

theorem bootAddressNack : Statement .bootAddressNack := trivial_iff

theorem bootStretchTimeout (got : List Byte) : Statement (.bootStretchTimeout got) :=
    bootFits_iff got

theorem bootArbitrationLost (lost : LostAttempt) : Statement (.bootArbitrationLost lost) := by
  unfold Statement Instr.wellFormed
  rw [Bool.and_eq_true, bootFits_iff, courseFits_iff]
  rfl

theorem bootReadEnd (bytes : Vector Byte 16) : Statement (.bootReadEnd bytes) := trivial_iff

theorem initWriteAnswer (ans : Arrived WriteAnswer) : Statement (.initWriteAnswer ans) := trivial_iff

theorem processorRead (addr : WordAddr) (more : Fin 8) : Statement (.processorRead addr more) :=
    trivial_iff

theorem processorWrite (txn : WriteTxn) : Statement (.processorWrite txn) := txnFits_iff txn

theorem scanReadAnswer (ans : Arrived (ReadAnswer 2)) : Statement (.scanReadAnswer ans) := trivial_iff

theorem detailReadAnswer (ans : Arrived (ReadAnswer 2)) : Statement (.detailReadAnswer ans) := trivial_iff

theorem forwardAnswer (ans : Arrived ForwardAnswer) : Statement (.forwardAnswer ans) := by
  cases ans with
  | current late a =>
    cases a with
    | ok data => exact decide_eq_true_iff
    | fault => exact trivial_iff
  | abandoned => exact trivial_iff

theorem journalWindowWrite (txn : WriteTxn) : Statement (.journalWindowWrite txn) := txnFits_iff txn

theorem journalWriteAnswer (ans : Arrived WriteAnswer) : Statement (.journalWriteAnswer ans) :=
    trivial_iff

theorem postWriteAnswer (ans : Arrived WriteAnswer) : Statement (.postWriteAnswer ans) := trivial_iff

theorem descriptorTableWrite (txn : WriteTxn) : Statement (.descriptorTableWrite txn) :=
    txnFits_iff txn

theorem controlBlockWrite (txn : WriteTxn) : Statement (.controlBlockWrite txn) := txnFits_iff txn

theorem breakFilterTimeWrite (k : StationId) (w : Word) : Statement (.breakFilterTimeWrite k w) :=
    trivial_iff

theorem breakPolarityWrite (k : StationId) (w : Word) : Statement (.breakPolarityWrite k w) :=
    trivial_iff

theorem ackTimeoutWrite (k : StationId) (w : Word) : Statement (.ackTimeoutWrite k w) := trivial_iff

theorem acknowledgeWrite (w : Word) : Statement (.acknowledgeWrite w) := trivial_iff

theorem interruptEnableWrite (w : Word) : Statement (.interruptEnableWrite w) := trivial_iff

theorem openJob (pre : List Word) (spare : BitVec 7) (index : BitVec 5) (start : Seq) :
    Statement (.openJob pre spare index start) := preFits_iff pre

theorem openComplete (ans : Arrived (ReadAnswer 4)) : Statement (.openComplete ans) := trivial_iff

theorem closeJob (pre : List Word) (arg : BitVec 28) : Statement (.closeJob pre arg) :=
    preFits_iff pre

theorem jobBadCmd (pre : List Word) (code : BitVec 4) (arg : BitVec 28) :
    Statement (.jobBadCmd pre code arg) := codeFits_iff pre code 3 (by decide)

theorem attach (k : StationId) (pre : List Word) (spare : BitVec 12) (start : Seq) :
    Statement (.attach k pre spare start) := preFits_iff pre

theorem attachComplete (ans : Arrived (ReadAnswer 4)) : Statement (.attachComplete ans) := trivial_iff

theorem detach (k : StationId) (pre : List Word) (arg : BitVec 28) :
    Statement (.detach k pre arg) := preFits_iff pre

theorem reattach (k : StationId) (pre : List Word) (arg : BitVec 28) :
    Statement (.reattach k pre arg) := preFits_iff pre

theorem hold (k : StationId) (pre : List Word) (arg : BitVec 28) : Statement (.hold k pre arg) :=
    preFits_iff pre

theorem resume (k : StationId) (pre : List Word) (arg : BitVec 28) :
    Statement (.resume k pre arg) := preFits_iff pre

theorem clear (k : StationId) (pre : List Word) (arg : BitVec 28) : Statement (.clear k pre arg) :=
    preFits_iff pre

theorem release (k : StationId) (pre : List Word) (arg : BitVec 28) :
    Statement (.release k pre arg) := preFits_iff pre

theorem releaseComplete (k : StationId) : Statement (.releaseComplete k) := trivial_iff

theorem stationBadCmd (k : StationId) (pre : List Word) (code : BitVec 4) (arg : BitVec 28) :
    Statement (.stationBadCmd k pre code arg) := codeFits_iff pre code 8 (by decide)

theorem replayTurnGrant : Statement .replayTurnGrant := trivial_iff

theorem replayReadAnswer (ans : Arrived (ReadAnswer 8)) : Statement (.replayReadAnswer ans) := trivial_iff

theorem replayWriteAnswer (ans : Arrived WriteAnswer) : Statement (.replayWriteAnswer ans) := trivial_iff

theorem arbiterGrant : Statement .arbiterGrant := trivial_iff

theorem statusWriteAnswer (ans : Arrived WriteAnswer) : Statement (.statusWriteAnswer ans) := trivial_iff

theorem drainReadAnswer (ans : Arrived (ReadAnswer 8)) : Statement (.drainReadAnswer ans) := trivial_iff

theorem frameEnd (k : StationId) : Statement (.frameEnd k) := trivial_iff

theorem accFrame (k : StationId) : Statement (.accFrame k) := trivial_iff

theorem doneFrame (k : StationId) : Statement (.doneFrame k) := trivial_iff

theorem nakCheck (k : StationId) : Statement (.nakCheck k) := trivial_iff

theorem nakFull (k : StationId) : Statement (.nakFull k) := trivial_iff

theorem nakTravel (k : StationId) : Statement (.nakTravel k) := trivial_iff

theorem fltFrame (k : StationId) : Statement (.fltFrame k) := trivial_iff

theorem ackTimerExpiry (k : StationId) : Statement (.ackTimerExpiry k) := trivial_iff

theorem haltBegin (k : StationId) : Statement (.haltBegin k) := trivial_iff

theorem goBegin (k : StationId) : Statement (.goBegin k) := trivial_iff

theorem segBegin (k : StationId) : Statement (.segBegin k) := trivial_iff

theorem resendBegin (k : StationId) : Statement (.resendBegin k) := trivial_iff

theorem frameTransmitEnd (k : StationId) : Statement (.frameTransmitEnd k) := trivial_iff

theorem readyChange (k : StationId) (asserted : Bool) : Statement (.readyChange k asserted) :=
    trivial_iff

theorem breakLineChange (k : StationId) (level : Bool) : Statement (.breakLineChange k level) :=
    trivial_iff

theorem breakQualifiedChange (k : StationId) : Statement (.breakQualifiedChange k) := trivial_iff

theorem stopLineChange (level : Bool) : Statement (.stopLineChange level) := trivial_iff

theorem stopAssertion : Statement .stopAssertion := trivial_iff

theorem stopNegation : Statement .stopNegation := trivial_iff

theorem characterComplete (k : StationId) (sample : SampledChar) :
    Statement (.characterComplete k sample) := trivial_iff

theorem lineReturnedToMark (k : StationId) : Statement (.lineReturnedToMark k) := trivial_iff

end Sys2Proof.Laws.WellFormedShape
end

