-- ==== Sys2Proof/Laws/StartUp.lean ====
section
/-! SUPPORT. The shared operations of start-up and the resets: one lemma each; and what the search for
the first time at which the boot bus is free finds. -/

namespace Sys2Proof.Machine

theorem mapLinks_get (v : Vector Link 6) (f : StationId → Link → Link) (k : StationId) :
    (mapLinks v f)[k] = f k v[k] := by
  rcases k with ⟨k, hk⟩
  have : k = 0 ∨ k = 1 ∨ k = 2 ∨ k = 3 ∨ k = 4 ∨ k = 5 := by omega
  rcases this with rfl | rfl | rfl | rfl | rfl | rfl <;> rfl

theorem firstLevels_get (b : BitVec 6) (k : StationId) :
    (firstLevels b)[k] = firstLevel (b.getLsbD k.val) := by
  rcases k with ⟨k, hk⟩
  have : k = 0 ∨ k = 1 ∨ k = 2 ∨ k = 3 ∨ k = 4 ∨ k = 5 := by omega
  rcases this with rfl | rfl | rfl | rfl | rfl | rfl <;> rfl

/-- The pass begins when the boot read is DONE and BUSRST_N is negated, and nothing else changes. -/
theorem startPass_eq (s : State) : startPass s = { s with boot := { s.boot with
    pass := if s.boot.state = .done ∧ s.busrst = false then some 0 else s.boot.pass } } := by
  unfold startPass
  split <;> rfl

/-- DONE with the regions latched, the pass begun unless BUSRST_N holds it back. -/
theorem bootDone_eq (r : Regions) (s : State) : bootDone r s = { s with boot := { s.boot with
    state := .done
    latched := some r
    pass := if s.busrst = false then some 0 else s.boot.pass } } := by
  unfold bootDone
  rw [startPass_eq]
  simp

/-- BOOT_BAD into an empty log. -/
theorem logBootBad_empty (c : BootCause) (s : State) (h : s.log = none) :
    (logBootBad c s).log = some ⟨.bootBad, .boot, false, bootCauseCode c,
      bootFirstWord s.boot.bytes, none, 0#8⟩ := by
  unfold logBootBad State.logError
  rw [h]
  simp

/-- The straps' defaults (Table 11-2). -/
theorem strapRegions_eq (b a : Bool) : strapRegions b a =
    ⟨if b then (if a then 0x0FFFF800#32 else 0x00FFF800#32)
      else (if a then 0x000FF800#32 else 0x0000F800#32), 0x40000000#32, 8⟩ := by
  cases b <;> cases a <;> rfl

/-! ### When the boot bus is free -/

/-- Before the next change the levels stand. -/
theorem levelsFrom_before {n : Nat} {cs : List BusChange} (h : changesRise n cs = true) (scl sda : Bool)
    {t : Nat} (ht : t ≤ n) : levelsFrom scl sda cs t = (scl, sda) := by
  cases cs with
  | nil => rfl
  | cons c rest =>
    simp only [changesRise, Bool.and_eq_true, decide_eq_true_eq] at h
    exact if_neg (by omega)

/-- The bus is free at `t`, of levels that have stood since `since`. -/
def FreeSince (since : Nat) (lev : Nat → Bool × Bool) (t : Nat) : Prop :=
  (∃ u, u ≤ t ∧ since < u ∧ lev (u - 1) = (true, false) ∧ lev u = (true, true)
      ∧ ∀ v, u ≤ v → v ≤ t → lev v = (true, true))
    ∨ (since + 4800 ≤ t ∧ ∀ v, t - 4800 ≤ v → v ≤ t → lev v = (true, true))

theorem busFree_iff (b : BusCourse) (t : Nat) : BusFree b t ↔ FreeSince 0 (levelsAt b) t := by
  unfold BusFree FreeSince StopSeen
  refine or_congr ⟨fun ⟨u, h1, ⟨h2, h3, h4⟩, h5⟩ => ⟨u, h1, h2, h3, h4, h5⟩,
    fun ⟨u, h1, h2, h3, h4, h5⟩ => ⟨u, h1, ⟨h2, h3, h4⟩, h5⟩⟩ (by rw [Nat.zero_add])

/-- The lines are high at any time at which the bus is free. -/
theorem FreeSince.high {since t : Nat} {lev : Nat → Bool × Bool} (h : FreeSince since lev t) :
    lev t = (true, true) := by
  rcases h with ⟨u, hu, -, -, -, h⟩ | ⟨-, h⟩
  · exact h t hu (Nat.le_refl t)
  · exact h t (Nat.sub_le t 4800) (Nat.le_refl t)

/-- While the levels stand, the bus becomes free only by the 100 µs. -/
theorem FreeSince.late {since t n : Nat} {lev : Nat → Bool × Bool} {x : Bool × Bool}
    (h : FreeSince since lev t) (hl : ∀ v, v < n → lev v = x) (ht : t < n) : since + 4800 ≤ t := by
  rcases h with ⟨u, hu, hs, h1, h2, -⟩ | ⟨h, -⟩
  · rw [hl _ (by omega)] at h1 h2
    rw [h1] at h2
    exact absurd h2 (by decide)
  · exact h

/-- A change of the levels that is no STOP begins the wait for 100 µs afresh. -/
theorem freeSince_change {since n : Nat} {lev new : Nat → Bool × Bool} {x y : Bool × Bool}
    (hs : since < n) (hne : y ≠ x) (hlev : ∀ v, lev v = if n ≤ v then new v else x)
    (hy : new n = y) (hstop : ¬(x = (true, false) ∧ y = (true, true)))
    (hq : x = (true, true) → n ≤ since + 4800) (t : Nat) :
    FreeSince since lev t ↔ FreeSince n new t := by
  have before : ∀ v, v < n → lev v = x := fun v hv => (hlev v).trans (if_neg (by omega))
  have same : ∀ v, n ≤ v → lev v = new v := fun v hv => (hlev v).trans (if_pos hv)
  constructor
  · intro h
    have hn : n ≤ t := by
      by_cases hc : t < n
      · have := hq ((before t hc).symm.trans h.high)
        have := h.late before hc
        omega
      · omega
    rcases h with ⟨u, hu, hsu, h1, h2, h3⟩ | ⟨h1, h2⟩
    · have hnu : n < u := by
        rcases Nat.lt_trichotomy n u with e | e | e
        · exact e
        · subst e
          exact absurd ⟨(before _ (by omega)).symm.trans h1,
            hy.symm.trans ((same n (Nat.le_refl n)).symm.trans h2)⟩ hstop
        · rw [before _ (by omega)] at h1 h2
          rw [h1] at h2
          exact absurd h2 (by decide)
      exact Or.inl ⟨u, hu, hnu, (same _ (by omega)).symm.trans h1, (same _ (by omega)).symm.trans h2,
        fun v hv hv' => (same _ (by omega)).symm.trans (h3 v hv hv')⟩
    · have hw : n + 4800 ≤ t := by
        by_cases hc : n + 4800 ≤ t
        · exact hc
        · have e1 := (before (n - 1) (by omega)).symm.trans (h2 (n - 1) (by omega) (by omega))
          have e2 := (same n (Nat.le_refl n)).symm.trans (h2 n (by omega) hn)
          exact absurd ((hy.symm.trans e2).trans e1.symm) hne
      exact Or.inr ⟨hw, fun v hv hv' => (same _ (by omega)).symm.trans (h2 v hv hv')⟩
  · rintro (⟨u, hu, hsu, h1, h2, h3⟩ | ⟨h1, h2⟩)
    · exact Or.inl ⟨u, hu, by omega, (same _ (by omega)).trans h1, (same _ (by omega)).trans h2,
        fun v hv hv' => (same _ (by omega)).trans (h3 v hv hv')⟩
    · exact Or.inr ⟨by omega, fun v hv hv' => (same _ (by omega)).trans (h2 v hv hv')⟩

/-- freeFrom finds the first time at which the bus is free, of levels that have stood since `since`. -/
theorem freeFrom_iff (cs : List BusChange) : ∀ (n since : Nat) (scl sda : Bool),
    changesRise n cs = true → since ≤ n → ∀ t, freeFrom since scl sda cs = some t ↔
      (FreeSince since (levelsFrom scl sda cs) t
        ∧ ∀ u, u < t → ¬FreeSince since (levelsFrom scl sda cs) u) := by
  induction cs with
  | nil =>
    intro n since scl sda _ _ t
    have late : ∀ u, FreeSince since (levelsFrom scl sda []) u → since + 4800 ≤ u := fun u h =>
      h.late (n := u + 1) (x := (scl, sda)) (fun _ _ => rfl) (by omega)
    rw [freeFrom, show Config.bootBusQuiet = 4800 from rfl]
    by_cases hh : (scl && sda) = true
    · rw [if_pos hh]
      have free : ∀ u, since + 4800 ≤ u → FreeSince since (levelsFrom scl sda []) u := fun u hu =>
        Or.inr ⟨hu, fun _ _ _ => by
          simp only [Bool.and_eq_true] at hh
          rw [levelsFrom, hh.1, hh.2]⟩
      constructor
      · intro h
        cases h
        exact ⟨free _ (Nat.le_refl _), fun u hu hf => by have := late u hf; omega⟩
      · rintro ⟨h1, h2⟩
        have := late t h1
        by_cases e : since + 4800 = t
        · rw [e]
        · exact absurd (free _ (Nat.le_refl _)) (h2 (since + 4800) (by omega))
    · rw [if_neg hh]
      constructor
      · intro h; cases h
      · rintro ⟨h1, -⟩
        have := h1.high
        simp only [levelsFrom, Prod.mk.injEq] at this
        simp [this.1, this.2] at hh
  | cons c rest ih =>
    intro n since scl sda h hs t
    simp only [changesRise, Bool.and_eq_true, decide_eq_true_eq] at h
    have before : ∀ v, v < c.after → levelsFrom scl sda (c :: rest) v = (scl, sda) := fun v hv =>
      if_neg (by omega)
    have hlev : ∀ v, levelsFrom scl sda (c :: rest) v =
        if c.after ≤ v then levelsFrom c.scl c.sda rest v else (scl, sda) := fun _ => rfl
    have hy : levelsFrom c.scl c.sda rest c.after = (c.scl, c.sda) :=
      levelsFrom_before h.2 _ _ (Nat.le_refl _)
    rw [freeFrom, show Config.bootBusQuiet = 4800 from rfl]
    by_cases h1 : (scl && sda && decide (since + 4800 < c.after)) = true
    · rw [if_pos h1]
      simp only [Bool.and_eq_true, decide_eq_true_eq] at h1
      have free : FreeSince since (levelsFrom scl sda (c :: rest)) (since + 4800) :=
        Or.inr ⟨Nat.le_refl _, fun v _ hv => by rw [before v (by omega), h1.1.1, h1.1.2]⟩
      constructor
      · intro e
        cases e
        exact ⟨free, fun u hu hf => by have := hf.late before (by omega); omega⟩
      · rintro ⟨e1, e2⟩
        rcases Nat.lt_trichotomy t (since + 4800) with e | e | e
        · have := e1.late before (by omega)
          omega
        · rw [e]
        · exact absurd free (e2 _ e)
    rw [if_neg h1]
    by_cases h2 : isStopCondition scl sda c = true
    · rw [if_pos h2]
      simp only [isStopCondition, Bool.and_eq_true, Bool.not_eq_true'] at h2
      obtain ⟨⟨⟨e1, e2⟩, e3⟩, e4⟩ := h2
      have at_ : levelsFrom scl sda (c :: rest) c.after = (true, true) := by
        rw [hlev, if_pos (Nat.le_refl _), hy, e2, e4]
      have free : FreeSince since (levelsFrom scl sda (c :: rest)) c.after :=
        Or.inl ⟨c.after, Nat.le_refl _, by omega, by rw [before _ (by omega), e1, e3], at_,
          fun v hv hv' => by rw [Nat.le_antisymm hv' hv]; exact at_⟩
      have low : ∀ u, u < c.after → ¬FreeSince since (levelsFrom scl sda (c :: rest)) u := by
        intro u hu hf
        have := (before u hu).symm.trans hf.high
        rw [e3] at this
        exact absurd (Prod.mk.inj this).2 (by decide)
      constructor
      · intro e
        cases e
        exact ⟨free, low⟩
      · rintro ⟨f1, f2⟩
        rcases Nat.lt_trichotomy t c.after with e | e | e
        · exact absurd f1 (low t e)
        · rw [e]
        · exact absurd free (f2 _ e)
    rw [if_neg h2]
    by_cases h3 : c.scl = scl ∧ c.sda = sda
    · rw [if_pos h3, ih c.after since c.scl c.sda h.2 (by omega) t]
      have e : levelsFrom scl sda (c :: rest) = levelsFrom c.scl c.sda rest := by
        funext v
        rw [hlev]
        split
        · rfl
        · rw [levelsFrom_before h.2 _ _ (by omega), h3.1, h3.2]
      rw [e]
    · rw [if_neg h3, ih c.after c.after c.scl c.sda h.2 (Nat.le_refl _) t]
      have key := freeSince_change (since := since) (n := c.after) (x := (scl, sda))
        (y := (c.scl, c.sda)) (by omega) (fun e => h3 ⟨(Prod.mk.inj e).1, (Prod.mk.inj e).2⟩) hlev hy
        (fun ⟨f1, f2⟩ => h2 (by
          simp only [Prod.mk.injEq] at f1 f2
          simp [isStopCondition, f1.1, f1.2, f2.1, f2.2]))
        (fun f => by
          simp only [Prod.mk.injEq] at f
          simp only [f.1, f.2, Bool.and_self, Bool.true_and, decide_eq_true_eq] at h1
          omega)
      exact ⟨fun ⟨a, b⟩ => ⟨(key t).mpr a, fun u hu hf => b u hu ((key u).mp hf)⟩,
        fun ⟨a, b⟩ => ⟨(key t).mp a, fun u hu hf => b u hu ((key u).mpr hf)⟩⟩

/-- What busFreeAfter finds is the first time at which the bus is free. -/
theorem busFreeAfter_iff {b : BusCourse} (h : b.wellFormed = true) (t : Nat) :
    busFreeAfter b = some t ↔ BusFirstFree b t := by
  unfold busFreeAfter BusFirstFree
  simp only [busFree_iff]
  exact freeFrom_iff b.changes 0 0 b.scl b.sda h (Nat.le_refl 0) t

/-- A bus that is free at some time is free for a first time, not later. -/
theorem busFirstFree_of {b : BusCourse} {t : Nat} :
    BusFree b t → ∃ u, u ≤ t ∧ BusFirstFree b u := by
  induction t using Nat.strongRecOn with
  | _ t ih =>
    intro h
    by_cases e : ∃ u, u < t ∧ BusFree b u
    · obtain ⟨u, hu, hf⟩ := e
      obtain ⟨w, hw, hf⟩ := ih u hu hf
      exact ⟨w, by omega, hf⟩
    · exact ⟨t, Nat.le_refl t, h, fun u hu hf => e ⟨u, hu, hf⟩⟩

/-- In time is within the 100 ms of R183. -/
theorem busFreeInTime_iff {b : BusCourse} (h : b.wellFormed = true) (t : Nat) :
    busFreeInTime b = some t ↔ BusFirstFree b t ∧ t ≤ 4800000 := by
  rw [busFreeInTime, Option.filter_eq_some_iff, busFreeAfter_iff h, decide_eq_true_eq]
  exact Iff.rfl

theorem busFreeInTime_none {b : BusCourse} (h : b.wellFormed = true) :
    busFreeInTime b = none ↔ ∀ t, t ≤ 4800000 → ¬BusFree b t := by
  rw [Option.eq_none_iff_forall_ne_some]
  constructor
  · intro hn t ht hf
    obtain ⟨u, hu, hf⟩ := busFirstFree_of hf
    exact hn u ((busFreeInTime_iff h u).mpr ⟨hf, by omega⟩)
  · intro hn t ht
    have := (busFreeInTime_iff h t).mp ht
    exact hn t this.2 this.1.1

end Sys2Proof.Machine
end

