-- ==== Sys2Proof/Laws/Transform.lean ====
section
/-! SUPPORT. The fields of a copy, read back from the words that `buildCopy` makes, and the shape of
every copy that the transform hands back. -/

namespace Sys2Proof.Machine

/-! ### Word 0 -/

section Word0

variable (q : Seq) (c : BitVec 4) (t : BitVec 4) (sy cl fc : Bool)

/-- Bit i of word 0, field by field from the low end. -/
theorem copyWord0_bit (i : Nat) : (copyWord0 q c t sy cl fc).getLsbD i =
    if i < 16 then q.getLsbD i
    else if i - 16 < 4 then c.getLsbD (i - 16)
    else if i - 16 - 4 < 4 then t.getLsbD (i - 16 - 4)
    else if i - 16 - 4 - 4 < 1 then (BitVec.ofBool sy).getLsbD (i - 16 - 4 - 4)
    else if i - 16 - 4 - 4 - 1 < 1 then (BitVec.ofBool cl).getLsbD (i - 16 - 4 - 4 - 1)
    else if i - 16 - 4 - 4 - 1 - 1 < 1 then (BitVec.ofBool fc).getLsbD (i - 16 - 4 - 4 - 1 - 1)
    else (0#5).getLsbD (i - 16 - 4 - 4 - 1 - 1 - 1) := by
  show BitVec.getLsbD (w := 5 + 1 + 1 + 1 + 4 + 4 + 16)
    (0#5 ++ BitVec.ofBool fc ++ BitVec.ofBool cl ++ BitVec.ofBool sy ++ t ++ c ++ q) i = _
  simp only [BitVec.getLsbD_append]

theorem copyWord0_seq : (copyWord0 q c t sy cl fc).extractLsb' 0 16 = q := by
  ext i hi
  rw [BitVec.getElem_extractLsb', copyWord0_bit, if_pos (by omega)]
  simp [BitVec.getLsbD_eq_getElem hi]

theorem copyWord0_kind : (copyWord0 q c t sy cl fc).extractLsb' 16 4 = c := by
  ext i hi
  rw [BitVec.getElem_extractLsb', copyWord0_bit, if_neg (by omega), if_pos (by omega)]
  simp [BitVec.getLsbD_eq_getElem hi]

theorem copyWord0_tool : (copyWord0 q c t sy cl fc).extractLsb' 20 4 = t := by
  ext i hi
  rw [BitVec.getElem_extractLsb', copyWord0_bit, if_neg (by omega), if_neg (by omega),
    if_pos (by omega), show 20 + i - 16 - 4 = i by omega, BitVec.getLsbD_eq_getElem hi]

theorem copyWord0_sync : (copyWord0 q c t sy cl fc).getLsbD 24 = sy := by
  rw [copyWord0_bit]; cases sy <;> rfl

theorem copyWord0_clamped : (copyWord0 q c t sy cl fc).getLsbD 25 = cl := by
  rw [copyWord0_bit]; cases cl <;> rfl

theorem copyWord0_feedClamp : (copyWord0 q c t sy cl fc).getLsbD 26 = fc := by
  rw [copyWord0_bit]; cases fc <;> rfl

theorem copyWord0_unused : (copyWord0 q c t sy cl fc).extractLsb' 27 5 = 0#5 := by
  ext i hi
  rw [BitVec.getElem_extractLsb', copyWord0_bit, if_neg (by omega), if_neg (by omega),
    if_neg (by omega), if_neg (by omega), if_neg (by omega), if_neg (by omega)]
  simp

/-- Bit i of word 6: the feed below, the speed above. -/
theorem copyWord6_bit (sp f : BitVec 16) (i : Nat) : BitVec.getLsbD (w := 32) (sp ++ f) i =
    if i < 16 then f.getLsbD i else sp.getLsbD (i - 16) := by
  show BitVec.getLsbD (w := 16 + 16) (sp ++ f) i = _
  simp only [BitVec.getLsbD_append]

end Word0

theorem kindOfCode_kindCode (k : Kind) : kindOfCode (kindCode k).toNat = some k := by
  cases k <;> rfl

/-! ### The whole copy -/

section Copy

variable (m : Record) (c : BitVec 4) (cl fc : Bool) (x y z ai j : Word) (feed : Nat)

@[simp] theorem buildCopy_seq : recSeq (buildCopy m c cl fc x y z ai j feed) = recSeq m :=
  copyWord0_seq ..

@[simp] theorem buildCopy_kindCode :
    (buildCopy m c cl fc x y z ai j feed)[0].extractLsb' 16 4 = c :=
  copyWord0_kind ..

@[simp] theorem buildCopy_kind (k : Kind) :
    recKind (buildCopy m (kindCode k) cl fc x y z ai j feed) = some k := by
  show kindOfCode ((copyWord0 _ _ _ _ _ _).extractLsb' 16 4).toNat = some k
  rw [copyWord0_kind, kindOfCode_kindCode]

/-- No bit of word 0 above the FEEDCLAMP flag is set (R190). -/
@[simp] theorem buildCopy_unused :
    (buildCopy m c cl fc x y z ai j feed)[0].extractLsb' 27 5 = 0#5 :=
  copyWord0_unused ..

@[simp] theorem buildCopy_tool : recTool (buildCopy m c cl fc x y z ai j feed) = recTool m :=
  copyWord0_tool ..

@[simp] theorem buildCopy_sync : recSync (buildCopy m c cl fc x y z ai j feed) = recSync m :=
  copyWord0_sync ..

@[simp] theorem buildCopy_clamped : recClamped (buildCopy m c cl fc x y z ai j feed) = cl :=
  copyWord0_clamped ..

@[simp] theorem buildCopy_feedClamp : recFeedClamp (buildCopy m c cl fc x y z ai j feed) = fc :=
  copyWord0_feedClamp ..

@[simp] theorem buildCopy_x : (buildCopy m c cl fc x y z ai j feed)[1] = x := rfl

@[simp] theorem buildCopy_y : (buildCopy m c cl fc x y z ai j feed)[2] = y := rfl

@[simp] theorem buildCopy_z : (buildCopy m c cl fc x y z ai j feed)[3] = z := rfl

@[simp] theorem buildCopy_ai : (buildCopy m c cl fc x y z ai j feed)[4] = ai := rfl

@[simp] theorem buildCopy_j : (buildCopy m c cl fc x y z ai j feed)[5] = j := rfl

@[simp] theorem buildCopy_speed : recSpeed (buildCopy m c cl fc x y z ai j feed) = recSpeed m := by
  show (recSpeed m ++ BitVec.ofNat 16 feed).extractLsb' 16 16 = recSpeed m
  ext i hi
  rw [BitVec.getElem_extractLsb', copyWord6_bit, if_neg (by omega),
    show 16 + i - 16 = i by omega, BitVec.getLsbD_eq_getElem hi]

/-- The feed field of a copy is the feed it was built with, when that is a 16-bit number. -/
theorem buildCopy_feed (h : feed < 65536) :
    recFeed (buildCopy m c cl fc x y z ai j feed) = feed := by
  show ((recSpeed m ++ BitVec.ofNat 16 feed).extractLsb' 0 16).toNat = feed
  have : (recSpeed m ++ BitVec.ofNat 16 feed).extractLsb' 0 16 = BitVec.ofNat 16 feed := by
    ext i hi
    rw [BitVec.getElem_extractLsb', copyWord6_bit, if_pos (by omega), Nat.zero_add,
      BitVec.getLsbD_eq_getElem hi]
  rw [this, BitVec.toNat_ofNat, Nat.mod_eq_of_lt h]

/-- Every copy built is check-correct (R18). -/
@[simp] theorem buildCopy_checkCorrect :
    checkCorrect (buildCopy m c cl fc x y z ai j feed) = true :=
  beq_self_eq_true _

end Copy

/-! ### The transform by kind -/

theorem transform_motion {b : Block} {m : Record} {k : Kind} (hk : recKind m = some k)
    (hm : isMotion k = true) : transform b m = motionCopy b k m := by
  simp [transform, hk, hm]

theorem transform_plain {b : Block} {m : Record} {k : Kind} (hk : recKind m = some k)
    (hm : isMotion k = false) : transform b m = some (plainCopy k m) := by
  simp [transform, hk, hm]

/-- A record of a kind that is not valid: what no rule states is the free value's (log 34). -/
theorem transform_unknown {b : Block} {m : Record} (hk : recKind m = none) :
    transform b m = (Config.copyOfUnknownKind b m).map (unknownCopy m) := by
  simp [transform, hk]

/-- A motion copy: the values in range and within the limits, and the copy they make. -/
theorem motionCopy_eq_some {b : Block} {k : Kind} {m c : Record} (h : motionCopy b k m = some c) :
    ∃ mo, scaleValid (cbScaleP b) (cbScaleQ b) = true ∧ motionOf b (k != .line) m = some mo
      ∧ withinTravel b mo.x mo.y (if mo.z < cbZfloor b then cbZfloor b else mo.z) = true
      ∧ c = buildCopy m (kindCode (mirroredKind k (cbMirrorX b) (cbMirrorY b))) (decide (mo.z < cbZfloor b))
          (copyFeed (cbScaleP b) (cbScaleQ b) (recFeed m)).2 (BitVec.ofInt 32 mo.x)
          (BitVec.ofInt 32 mo.y)
          (BitVec.ofInt 32 (if mo.z < cbZfloor b then cbZfloor b else mo.z))
          (BitVec.ofInt 32 (if k = .line then copyAngle b m[4].toNat else mo.i))
          (BitVec.ofInt 32 (if k = .line then 0 else mo.j))
          (copyFeed (cbScaleP b) (cbScaleQ b) (recFeed m)).1 := by
  unfold motionCopy at h
  by_cases hs : scaleValid (cbScaleP b) (cbScaleQ b) = true
  · rw [if_pos hs] at h
    cases hmo : motionOf b (k != .line) m with
    | none => rw [hmo] at h; exact absurd h (by simp)
    | some mo =>
      rw [hmo] at h
      simp only [decide_eq_true_eq] at h
      by_cases hw : withinTravel b mo.x mo.y (if mo.z < cbZfloor b then cbZfloor b else mo.z) = true
      · rw [if_pos hw] at h
        exact ⟨mo, hs, rfl, hw, (Option.some.inj h).symm⟩
      · rw [if_neg hw] at h; exact absurd h (by simp)
  · rw [if_neg hs] at h; exact absurd h (by simp)

/-- Every copy is built from the master with the kind's code, flags and fields of its own. -/
theorem transform_built {b : Block} {m copy : Record} (h : transform b m = some copy) :
    ∃ c cl fc x y z ai j feed, copy = buildCopy m c cl fc x y z ai j feed := by
  unfold transform at h
  split at h
  · obtain ⟨f, -, rfl⟩ := Option.map_eq_some_iff.mp h
    exact ⟨_, _, _, _, _, _, _, _, _, rfl⟩
  · split at h
    · obtain ⟨mo, -, -, -, rfl⟩ := motionCopy_eq_some h
      exact ⟨_, _, _, _, _, _, _, _, _, rfl⟩
    · exact ⟨_, _, _, _, _, _, _, _, _, (Option.some.inj h).symm⟩

/-- The values of a motion record when all that R15 lists are in range. -/
theorem motionOf_eq_some {b : Block} {arc : Bool} {m : Record} {mo : Motion}
    (h : motionOf b arc m = some mo) :
    mo = motionValues b m ∧ (rangeTested b m).all inRange32 = true
      ∧ (arc = true → (arcTested b m).all inRange32 = true) := by
  unfold motionOf at h
  split at h
  · rename_i hl
    rw [Bool.and_eq_true, Bool.or_eq_true, Bool.not_eq_true'] at hl
    exact ⟨(Option.some.inj h).symm, hl.1, fun ha => hl.2.resolve_left (by simp [ha])⟩
  · exact absurd h (by simp)

/-- The endpoint of a motion record in range. -/
theorem motionOf_inRange {b : Block} {arc : Bool} {m : Record} {mo : Motion}
    (h : motionOf b arc m = some mo) :
    inRange32 mo.x = true ∧ inRange32 mo.y = true ∧ inRange32 mo.z = true
      ∧ (arc = true → inRange32 mo.i = true ∧ inRange32 mo.j = true) := by
  obtain ⟨rfl, h1, h2⟩ := motionOf_eq_some h
  simp only [rangeTested, arcTested, List.all_cons, List.all_nil, Bool.and_true,
    Bool.and_eq_true] at h1 h2
  exact ⟨h1.2.2.2.2.1, h1.2.2.2.2.2.1, h1.2.2.2.2.2.2.2.2, fun ha => ⟨(h2 ha).2.2.1, (h2 ha).2.2.2⟩⟩

/-- A motion record has a copy exactly when the scale pair is valid, every value that R15 lists is in
range and the endpoint lies within the travel limits. -/
theorem motionCopy_isSome (b : Block) (k : Kind) (m : Record) :
    (motionCopy b k m).isSome =
      (scaleValid (cbScaleP b) (cbScaleQ b)
        && ((rangeTested b m).all inRange32 && (!(k != .line) || (arcTested b m).all inRange32))
        && withinTravel b (motionValues b m).x (motionValues b m).y
            (if (motionValues b m).z < cbZfloor b then cbZfloor b else (motionValues b m).z)) := by
  unfold motionCopy motionOf
  by_cases hs : scaleValid (cbScaleP b) (cbScaleQ b) = true
  · by_cases hr : ((rangeTested b m).all inRange32
        && (!(k != .line) || (arcTested b m).all inRange32)) = true
    · rw [if_pos hs, if_pos hr, hs, hr]
      simp only [decide_eq_true_eq, Bool.true_and]
      by_cases hw : withinTravel b (motionValues b m).x (motionValues b m).y
          (if (motionValues b m).z < cbZfloor b then cbZfloor b else (motionValues b m).z) = true
      · rw [if_pos hw, hw]; rfl
      · rw [if_neg hw, Bool.eq_false_iff.mpr hw]; rfl
    · rw [if_pos hs, if_neg hr, Bool.eq_false_iff.mpr hr]
      simp
  · rw [if_neg hs, Bool.eq_false_iff.mpr hs]
    simp

/-- An integer in the signed 32-bit range survives as a word. -/
theorem toInt_ofInt_of_inRange32 {v : Int} (h : inRange32 v = true) :
    (BitVec.ofInt 32 v).toInt = v := by
  simp only [inRange32, decide_eq_true_eq] at h
  rw [BitVec.toInt_ofInt]
  exact Int.bmod_eq_of_le (by omega) (by omega)

end Sys2Proof.Machine
end

