-- ==== Sys2Proof/Tests/Slice0.lean ====
section
/-! SUPPORT. The writer's own tests: the checks of WellFormed, the manual's worked numbers, and for each
statement with hypotheses a state and operands that meet them. -/

namespace Sys2Proof.Tests

open Sys2Proof.Machine

/-! ### The checks of WellFormed -/

def word : WriteWord := ⟨0#32, 0xF#4⟩

theorem test_wf_write_too_long :
    (Instr.processorWrite ⟨0, word, List.replicate 8 word⟩).wellFormed = false
    ∧ (Instr.journalWindowWrite ⟨0, word, List.replicate 8 word⟩).wellFormed = false
    ∧ (Instr.descriptorTableWrite ⟨0, word, List.replicate 8 word⟩).wellFormed = false
    ∧ (Instr.controlBlockWrite ⟨0, word, List.replicate 8 word⟩).wellFormed = false
    ∧ (Instr.processorWrite ⟨0, word, List.replicate 7 word⟩).wellFormed = true := by decide

theorem test_wf_job_prefix_too_long :
    (Instr.openJob (List.replicate 8 0) 0 0 0).wellFormed = false
    ∧ (Instr.closeJob (List.replicate 8 0) 0).wellFormed = false
    ∧ (Instr.jobBadCmd (List.replicate 8 0) 3 0).wellFormed = false
    ∧ (Instr.openJob (List.replicate 7 0) 0 0 0).wellFormed = true := by decide

theorem test_wf_station_prefix_too_long :
    (Instr.attach 0 (List.replicate 8 0) 0 0).wellFormed = false
    ∧ (Instr.detach 0 (List.replicate 8 0) 0).wellFormed = false
    ∧ (Instr.reattach 0 (List.replicate 8 0) 0).wellFormed = false
    ∧ (Instr.hold 0 (List.replicate 8 0) 0).wellFormed = false
    ∧ (Instr.resume 0 (List.replicate 8 0) 0).wellFormed = false
    ∧ (Instr.clear 0 (List.replicate 8 0) 0).wellFormed = false
    ∧ (Instr.release 0 (List.replicate 8 0) 0).wellFormed = false
    ∧ (Instr.stationBadCmd 0 (List.replicate 8 0) 8 0).wellFormed = false := by decide

theorem test_wf_bad_command_code :
    (Instr.jobBadCmd [] 2 0).wellFormed = false ∧ (Instr.jobBadCmd [] 3 0).wellFormed = true
    ∧ (Instr.stationBadCmd 0 [] 7 0).wellFormed = false
    ∧ (Instr.stationBadCmd 0 [] 8 0).wellFormed = true := by decide

theorem test_wf_boot_bytes_too_many :
    (Instr.bootStretchTimeout (List.replicate 17 0)).wellFormed = false
    ∧ (Instr.bootArbitrationLost ⟨List.replicate 17 0, ⟨true, true, []⟩⟩).wellFormed = false
    ∧ (Instr.bootStretchTimeout (List.replicate 16 0)).wellFormed = true := by decide

/-- A course whose changes do not rise, and one that does. -/
def twisted : BusCourse := ⟨true, true, [⟨5, false, true⟩, ⟨5, true, true⟩]⟩
def straight : BusCourse := ⟨true, true, [⟨5, false, true⟩, ⟨6, true, true⟩]⟩

theorem test_wf_bus_course_falls :
    (Instr.bootArbitrationLost ⟨[], twisted⟩).wellFormed = false
    ∧ (Instr.porstNegation ⟨0, true, true, true, twisted⟩).wellFormed = false
    ∧ (Instr.bootArbitrationLost ⟨[], straight⟩).wellFormed = true
    ∧ (Instr.porstNegation ⟨0, true, true, true, ⟨true, true, [⟨0, true, false⟩]⟩⟩).wellFormed = false := by
  decide

theorem test_wf_forward_data_too_long :
    (Instr.forwardAnswer (.current [] (.ok (List.replicate 9 0)))).wellFormed = false
    ∧ (Instr.forwardAnswer (.current [] (.ok (List.replicate 8 0)))).wellFormed = true := by decide

/-! ### The manual's own numbers -/

/-- Table 1-5. -/
theorem test_scaling_examples :
    scaled 1 2 45001 = 22501 ∧ scaled 1 2 (-45001) = -22501 ∧ scaled 1 4 5 = 1 ∧ scaled 1 4 7 = 2
    ∧ scaled 1 4096 1 = 0 ∧ scaled 3 7 100000 = 42857
    ∧ scaled 4096 1 2000000000 = 8192000000000 := by decide

/-- The check word of section 1.3's example. -/
theorem test_check_word_example : checkWord 0x0004A2F0#32 0 0 0 0 0 0 = 0xFFFB5D0F#32 := by decide

/-- A record of seven words with its check word. -/
def recordOf (w0 w1 w2 w3 w4 w5 w6 : Word) : Record :=
  #v[w0, w1, w2, w3, w4, w5, w6, checkWord w0 w1 w2 w3 w4 w5 w6]

/-- The master arc of chapter 1: sequence 1207, ARC_CW, tool 3. -/
def masterArc : Record :=
  recordOf (1207#32 ||| place 1 16 ||| place 3 20) 120000#32 45001#32 (BitVec.ofInt 32 (-8003))
    (BitVec.ofInt 32 (-30000)) 15001#32 (1800#32 ||| place 9000 16)

/-- The settings of a half-scale station of chapter 1. -/
def halfScale (w0 ox zfloor : Word) : Block :=
  #v[w0, 1#32 ||| place 2 16, ox, 20000#32, 0#32, 0#32, zfloor, 50000#32, 0#32, 1000000#32, 0#32,
     400000#32, 0#32, 1250#32, 0#32, 0#32]

/-- Station 2's copy (chapter 1). -/
theorem test_arc_of_station_2 : transform (halfScale 0#32 60000#32 (BitVec.ofInt 32 (-6000))) masterArc =
    some (recordOf (1207#32 ||| place 1 16 ||| place 3 20) 120000#32 42501#32
      (BitVec.ofInt 32 (-2752)) (BitVec.ofInt 32 (-15000)) 7501#32 (900#32 ||| place 9000 16)) := by
  decide

/-- Station 3's copy, mirrored and clamped (chapter 1). -/
theorem test_arc_of_station_3 :
    transform (halfScale (place 1 16) 500000#32 (BitVec.ofInt 32 (-2000))) masterArc =
    some (recordOf (1207#32 ||| place 2 16 ||| place 3 20 ||| place 1 25) 440000#32 42501#32
      (BitVec.ofInt 32 (-2000)) 15000#32 7501#32 (900#32 ||| place 9000 16)) := by
  decide

/-- The line record of chapter 1. -/
def masterLine : Record :=
  recordOf 1208#32 120000#32 45001#32 (BitVec.ofInt 32 (-8003)) 15000#32 0#32
    (1800#32 ||| place 9000 16)

/-- A MARK record. -/
def masterMark : Record := recordOf (1208#32 ||| place 5 16) 0 0 0 0 0 (1800#32 ||| place 9000 16)

/-- Its three outcomes at stations with unusual settings. -/
theorem test_line_outcomes :
    (transform ((halfScale 0#32 0#32 (BitVec.ofInt 32 (-9000))).set 1 (1#32 ||| place 4096 16))
        masterLine).map (fun c => (recFeed c, recFeedClamp c)) = some (1, true)
    ∧ transform (((halfScale 0#32 0#32 (BitVec.ofInt 32 (-9000))).set 1 0x00010001#32).set 9
        100000#32) masterLine = none
    ∧ transform ((halfScale 0#32 0#32 0#32).set 1 (place 1 16)) masterLine = none
    ∧ (transform ((halfScale 0#32 0#32 0#32).set 1 (place 1 16)) masterMark).isSome = true := by
  decide

/-- Section 12.6: a HALT with reason 3 is 0x52 0x03 0xAB. -/
theorem test_halt_frame : haltFrame 3#8 = [0x52#8, 0x03#8, 0xAB#8] := by decide

/-- Table 6-3. -/
theorem test_reception_examples :
    examineFrame ⟨.received, [0xA1#8, 0xD2#8, 0x04#8, 0x89#8], 4, false, 0⟩ = some (.acc 1234#16)
    ∧ examineFrame ⟨.received, [0xA1#8, 0xD2#8, 0x04#8, 0x88#8], 4, false, 0⟩ = none
    ∧ examineFrame ⟨.received, [0xA2#8, 0xD2#8, 0x04#8], 3, false, 0⟩ = none
    ∧ examineFrame ⟨.received, [0xA4#8, 0x07#8, 0x55#8, 0x00#8], 4, false, 0⟩ = none
    ∧ examineFrame ⟨.received, [0xA2#8, 0xD3#8, 0x04#8, 0x86#8], 4, true, 0⟩ = none := by decide

/-- Section 12.7's boot record, with its check byte 0x3E. -/
def bootExample : Vector Byte 16 :=
  #v[0x4B#8, 0x36#8, 0x00#8, 0xF8#8, 0x01#8, 0x00#8, 0x00#8, 0x00#8, 0x00#8, 0x40#8, 0x08#8, 0#8, 0#8,
     0#8, 0#8, 0x3E#8]

theorem test_boot_record_example : bootFailure bootExample = none
    ∧ bootRegions bootExample = ⟨0x0001F800#32, 0x40000000#32, 8⟩ := by decide

/-- Section 2.2's examples of the latest sequence of a slot. -/
theorem test_latest_distance_examples :
    latestDistance { Job.reset with slots := 64, frontier := 410#16 } 36 = 54
    ∧ latestDistance { Job.reset with slots := 64, frontier := 501#16 } 60 = 57 := by decide

/-- The gate example of chapter 5: DONE(5204) on station 1 releases the entry once it is the last. -/
theorem test_gate_releases : (Gate.completed ⟨[⟨5204#16, 0b001101#6⟩], 0b001111#6⟩ 1 5204#16).entries = []
    ∧ (Gate.completed ⟨[⟨5204#16, 0b001001#6⟩], 0b001111#6⟩ 1 5204#16).entries =
      [⟨5204#16, 0b001011#6⟩]
    ∧ (Gate.leave ⟨[⟨5204#16, 0b001011#6⟩], 0b001111#6⟩ 2).entries = [] := by decide

/-! ### Small states -/

/-- The regions of the strap default with STRAP_A and STRAP_B low. -/
def regions : Regions := ⟨0x0000F800#32, 0x40000000#32, 8⟩

/-- The part right after a start-up that took the strap defaults. -/
def idle : State :=
  { State.reset with
    porst := false
    taking := true
    boot := { Boot.reset with state := .done, latched := some regions } }

theorem idle_takes : PortTakes idle regions := ⟨rfl, rfl, rfl, by decide⟩

/-- The state after a command. -/
def after (i : Instr) (s : State) : State :=
  match exec i s with
  | .next t => t
  | .fault _ => s
  | .refused _ => s

/-- The word address of a byte address. -/
def at_ (a : Word) : WordAddr := a.extractLsb' 2 30

/-- A write of whole words. -/
def writeOf (a : Word) (first : Word) (rest : List Word) : WriteTxn :=
  ⟨at_ a, asWhole first, rest.map asWhole⟩

/-- A transaction of the requester is on the port. -/
def carrying (s : State) (r : Requester) : State :=
  { s with port := { s.port with inFlight := some ⟨r, ⟨.processor, 0#32, .read 1⟩⟩ } }

/-- Station 0 with a feed and a drive, over a ring of 16 slots. -/
def withStation (s : State) (f : Feed) (d : Drive) : State :=
  s.setStation 0 { Station.reset with
    feed := f, drive := d, ring := some 4#5, ringBase := 0x42000000#32, capacity := 16
    post := 6#16, send := 5#16, done := 4#16 }

/-- Station 0 LIVE and RUNNING with a SEG for 5 outstanding in a phase, and a frame in its queue. -/
def sending (phase : SegPhase) (d : DriveFrame) : State :=
  (withStation idle .live .running).setLink 0 { Link.reset with
    outstanding := some ⟨5#16, phase⟩, staging := .copy 5#16 masterMark, queue := [d] }

/-! ### Steps and marks -/

theorem test_idle_step : step idle = .next { idle with now := 1 } := rfl

theorem test_changed_record : idle.porst = false
    ∧ exec .stopNegation { idle with stop := ⟨true, false, some 0⟩ } =
      .next (after .stopNegation { idle with stop := ⟨true, false, some 0⟩ })
    ∧ recordLower (after .stopNegation { idle with stop := ⟨true, false, some 0⟩ }) .job
      ≠ recordLower { idle with stop := ⟨true, false, some 0⟩ } .job := ⟨rfl, rfl, by decide⟩

/-- Station 1's receive queue and the log full, the sizes within their fields. -/
theorem test_record_sizes : SizesFit (sending .waiting (.acc 5))
    ∧ (sending .waiting (.acc 5)).gate.entries.length ≤ 4
    ∧ recordLower { idle with log := some ⟨.access, .processor, true, 7, 9, some 2, 3⟩ } .errorLog =
      #v[0x03021104#32, 7, 9, 0, 0, 0, 0, 0] := by
  unfold SizesFit
  decide

/-! ### The copy transform -/

theorem test_valid_kinds : recKind masterArc = some .arcCw ∧ recKind masterLine = some .line
    ∧ recKind masterMark = some .mark ∧ isMotion .mark = false ∧ isMotion .arcCw = true := by decide

theorem test_invalid_scale_pairs :
    ¬(1 ≤ cbScaleP (Block.stationReset.set 1 0x00010000#32)
      ∧ cbScaleP (Block.stationReset.set 1 0x00010000#32) ≤ 4096)
    ∧ ¬(1 ≤ cbScaleQ (Block.stationReset.set 1 0x10010001#32)
      ∧ cbScaleQ (Block.stationReset.set 1 0x10010001#32) ≤ 4096) := by decide

/-- The same arc turning the other way. -/
def masterArcCcw : Record :=
  recordOf (1207#32 ||| place 2 16) 120000#32 45001#32 0#32 0#32 15001#32 1800#32

theorem test_copies_exist :
    (transform (halfScale (place 1 16) 500000#32 0#32) masterArc).isSome = true
    ∧ (transform (halfScale (place 1 16) 500000#32 0#32) masterArcCcw).isSome = true
    ∧ (transform (halfScale (place 1 18) 60000#32 0#32) masterLine).isSome = true
    ∧ (transform (halfScale 0#32 60000#32 0#32) masterMark).isSome = true
    ∧ recKind masterArcCcw = some .arcCcw := by decide

theorem test_point_within_limits :
    scaleValid (cbScaleP (halfScale 0#32 60000#32 0#32)) (cbScaleQ (halfScale 0#32 60000#32 0#32)) = true
    ∧ (motionOf (halfScale 0#32 60000#32 0#32) true masterArc).isSome = true
    ∧ cbXmin (halfScale 0#32 60000#32 0#32) ≤ 120000 ∧ 120000 ≤ cbXmax (halfScale 0#32 60000#32 0#32)
    ∧ cbYmin (halfScale 0#32 60000#32 0#32) ≤ 42501 ∧ 42501 ≤ cbYmax (halfScale 0#32 60000#32 0#32)
    ∧ 0 ≤ cbZmax (halfScale 0#32 60000#32 0#32) := by decide

/-! ### Resets and start-up -/

theorem test_under_power_on_reset : State.reset.porst = true := rfl

/-- Station 0 RUNNING with its link's slot as given. -/
def slotted (c : ControlSlot) : State :=
  (withStation idle .live .running).setLink 0 { Link.reset with slot := c }

theorem test_bus_reset_slots : (slotted .empty).porst = false ∧ (slotted .empty).busrst = false
    ∧ (after .busReset (slotted (.halt 3#8))).links[(0 : StationId)].slot = .halt 3#8
    ∧ (after .busReset (slotted .go)).links[(0 : StationId)].slot = .empty
    ∧ (after .busReset (slotted .empty)).links[(0 : StationId)].slot = .halt 0x20#8
    ∧ (after .busReset idle).links[(0 : StationId)].slot = .empty := by decide

/-- The boot loader in a state with some attempts counted. -/
def booting (b : BootState) (n : Nat) : State :=
  { State.reset with porst := false, boot := { Boot.reset with state := b, attempts := n } }

/-- The boot loader waiting on a bus that takes this course. -/
def waiting (b : BusCourse) : State :=
  { booting .waiting 0 with boot := { Boot.reset with state := .waiting, bus := b } }

/-- SDA held low, until a STOP at the time given or for good. -/
def stopAt (t : Nat) : BusCourse := ⟨true, false, [⟨t, true, true⟩]⟩
def neverFree : BusCourse := ⟨true, false, []⟩

theorem test_boot_states : (booting .waiting 0).porst = false
    ∧ (after .bootAttempt (booting .waiting 0)).boot.state = .reading
    ∧ (after (.bootArbitrationLost ⟨[], straight⟩) (booting .reading 3)).boot.bus = straight
    ∧ (after (.bootArbitrationLost ⟨[], straight⟩) (booting .reading 4)).boot.state = .done
    ∧ (after .bootBusBusyTimeout (waiting neverFree)).boot.state = .done
    ∧ (after .bootBusBusyTimeout (waiting neverFree)).now = 4800000
    ∧ (after .bootDeviceNack (booting .reading 0)).log = none := by decide

/-- Free at 100 µs of quiet, at a STOP, at a STOP as the 100 ms end, and not in time; a bus with both
lines high for 100 µs before the STOP is free earlier. -/
theorem test_bus_free :
    BusFirstFree Boot.reset.bus 4800 ∧ BusFirstFree (stopAt 7) 7
    ∧ BusFirstFree (stopAt 4800000) 4800000 ∧ BusFirstFree (stopAt 4800001) 4800001
    ∧ BusFirstFree ⟨true, true, [⟨4800, false, true⟩, ⟨4801, true, true⟩]⟩ 9601
    ∧ BusFirstFree ⟨true, true, [⟨4801, true, false⟩, ⟨4900, true, true⟩]⟩ 4800 :=
  ⟨(busFreeAfter_iff rfl _).mp rfl, (busFreeAfter_iff rfl _).mp rfl, (busFreeAfter_iff rfl _).mp rfl,
    (busFreeAfter_iff rfl _).mp rfl, (busFreeAfter_iff (by decide) _).mp (by decide),
    (busFreeAfter_iff (by decide) _).mp (by decide)⟩

theorem test_bus_never_free (t : Nat) : ¬BusFree neverFree t := fun h =>
  Bool.noConfusion (Prod.mk.inj ((busFree_iff _ t).mp h).high).2

/-- An attempt begins when the bus is first free, and at 100 ms; a later bus begins none, and times out. -/
theorem test_bus_in_time :
    (after .bootAttempt (waiting (stopAt 4800000))).boot.state = .reading
    ∧ (after .bootAttempt (waiting (stopAt 4800000))).now = 4800000
    ∧ after .bootAttempt (waiting (stopAt 4800001)) = waiting (stopAt 4800001)
    ∧ after .bootAttempt (waiting neverFree) = waiting neverFree
    ∧ after .bootBusBusyTimeout (waiting (stopAt 4800000)) = waiting (stopAt 4800000)
    ∧ (after .bootBusBusyTimeout (waiting (stopAt 4800001))).boot.state = .done
    ∧ ¬(∃ t, t ≤ 4800000 ∧ BusFree (stopAt 4800001) t) :=
  ⟨by decide, by decide, by decide, by decide, by decide, by decide, fun ⟨t, ht, h⟩ =>
    (busFreeInTime_none rfl).mp rfl t ht h⟩

/-- The exchange's first acts, START and the address 0x50 with the write bit, on SCL and SDA. -/
theorem test_boot_lines :
    (after .bootAttempt (booting .waiting 0)).bootLines.take 9 =
      [⟨false, false⟩, ⟨false, true⟩, ⟨true, true⟩, ⟨true, false⟩, ⟨false, false⟩, ⟨true, false⟩,
       ⟨true, true⟩, ⟨false, true⟩, ⟨true, true⟩] := by decide

theorem test_pass_begins :
    (after .busrstNegation { idle with busrst := true }).boot.pass = some 0
    ∧ (after .busrstNegation { booting .waiting 0 with busrst := true }).boot.pass = none := by
  decide

/-- A boot record with one test failing: the signature, the sum, the alignment, the overlap. -/
theorem test_boot_failures :
    bootFailure (bootExample.set 0 0x4C#8) = some .signature
    ∧ bootFailure (bootExample.set 15 0x3F#8) = some .check
    ∧ bootFailure ((bootExample.set 3 0xFC#8).set 15 0x3A#8) = some .align
    ∧ bootFailure ((bootExample.set 10 0x0B#8).set 15 0x3B#8) = some .align
    ∧ bootFailure ((((bootExample.set 3 0#8).set 4 0#8).set 5 0x40#8).set 15 0xF7#8) =
      some .overlap := by decide

/-- The pass at write `i`, its write in flight. -/
def passing (i : Nat) (upper : Option (Word × Record)) : State :=
  { carrying idle .status with
    boot := { idle.boot with pass := some i }
    taking := false
    writer := { Writer.reset with write := some ⟨some .job, 0#32, upper⟩ } }

theorem test_pass_writes : (passing 0 none).porst = false
    ∧ (after (.initWriteAnswer (.current [] .ok)) (passing 0 none)).boot.pass = some 1
    ∧ (after (.initWriteAnswer (.current [] .ok)) (passing 61 none)).taking = true
    ∧ (after (.initWriteAnswer (.current [] .ok)) (passing 30 (some (0#32, zeroRecord)))).boot.pass = some 31
    ∧ (after (.initWriteAnswer (.current [] .fault)) (passing 30 (some (0#32, zeroRecord)))).boot.pass = some 32
    ∧ (after (.initWriteAnswer (.current [] .fault)) (passing 61 none)).taking = true := by decide

/-! ### The processor port -/

theorem test_retry_before_the_pass_ends : { idle with taking := false }.proc.current = none
    ∧ (after (.processorRead 0 0) { idle with taking := false }).proc.answer = some .retry := by
  decide

/-- Two words from byte 28 on leave the block; one word does not. -/
theorem test_burst_boundary : inOneBlock (.read (at_ 28#32) 1) = false
    ∧ inOneBlock (.read (at_ 28#32) 0) = true ∧ inOneBlock (.read (at_ 0#32) 7) = true := by decide

theorem test_where_addresses_lie : inPage regions 0xF800#32 = true ∧ inPage regions 0xFFFF#32 = true
    ∧ inPage regions 0xF7FF#32 = false ∧ inPage regions 0x10000#32 = false
    ∧ inWindowSpace regions 0x40000000#32 = true ∧ inWindowSpace regions 0x4FFFFFFF#32 = true
    ∧ inWindowSpace regions 0x50000000#32 = false ∧ cacheHit idle.cache 0x40000000#32 = none := by
  decide

/-- The port with one cached window of 2 KB at 0x4100_0000. -/
def cached (w0 w2 : Word) : State :=
  { idle with cache := ⟨idle.cache.entries.set 0 (some ⟨3#5, ⟨w0, 0x41000000#32, w2, 0#32⟩⟩), [0]⟩ }

theorem test_window_kinds :
    (cacheHit (cached 0x201#32 0x20#32).cache 0x41000000#32).isSome = true
    ∧ (cacheHit (cached 0x201#32 0x20#32).cache 0x410007FF#32).isSome = true
    ∧ (cacheHit (cached 0x201#32 0x20#32).cache 0x41000800#32).isSome = false
    ∧ descKind 0x201#32 = some .pass ∧ descKind 0x211#32 = some .journal
    ∧ descKind 0x221#32 = some .ring ∧ descAccess ⟨0, 0, 0x20#32, 0⟩ = 2
    ∧ descAccess ⟨0, 0, 0x10#32, 0⟩ = 1 ∧ descAccess ⟨0, 0, 0, 0⟩ = 0 := by decide

theorem test_window_hits :
    (after (.processorRead (at_ 0x41000010#32) 0) (cached 0x201#32 0x20#32)).proc.current =
      some ⟨.read (at_ 0x41000010#32) 0, .forward 0x10#32⟩
    ∧ (after (.processorRead (at_ 0x41000010#32) 0) (cached 0x201#32 0#32)).proc.answer =
      some (.error .access)
    ∧ (after (.processorWrite (writeOf 0x41000010#32 0 [])) (cached 0x211#32 0#32)).proc.answer =
      some (.error .noJob)
    ∧ (after (.processorWrite (writeOf 0x41000010#32 0 [])) (cached 0x221#32 0#32)).proc.answer =
      some (.error .access) := by decide

/-- A read at 0x4100_0000 with work on its behalf in flight. -/
def working (w : TransitWork) : State :=
  { carrying idle .transit with proc := ⟨some ⟨.read (at_ 0x41000000#32) 0, w⟩, none⟩ }

theorem test_forward_answered :
    (after (.forwardAnswer (.current [] (.ok [7#32]))) (working (.forward 0#32))).proc.answer = some (.done [7#32])
    ∧ (after (.forwardAnswer (.current [] .fault)) (working (.forward 0#32))).proc.answer =
      some (.error .memFault) := by decide

/-- The last read of a scan whose earlier descriptors are `got`. -/
def lastScan (got : List (Word × Word)) : State := working (.scan got)

theorem test_scan_decisions :
    (after (.scanReadAnswer (.current [] (.ok #v[0, 0]))) (lastScan [])).proc.current =
      some ⟨.read (at_ 0x41000000#32) 0, .scan [(0, 0)]⟩
    ∧ (after (.scanReadAnswer (.current [] (.ok #v[0, 0]))) (lastScan (List.replicate 31 (0, 0)))).proc.answer =
      some (.error .unmapped)
    ∧ (after (.scanReadAnswer (.current [] (.ok #v[0x201, 0x41000000#32])))
        (lastScan ((1, 0x41000000#32) :: List.replicate 30 (0, 0)))).proc.answer =
      some (.error .overlap)
    ∧ (after (.scanReadAnswer (.current [] (.ok #v[0x201, 0x41000000#32])))
        (lastScan (List.replicate 31 (0, 0)))).proc.current =
      some ⟨.read (at_ 0x41000000#32) 0, .detail 31#5 0x201#32 0x41000000#32⟩
    ∧ (after (.scanReadAnswer (.current [] .fault)) (lastScan [])).job.searches = 1#16 := by decide

theorem test_detail_decisions :
    (after (.detailReadAnswer (.current [] (.ok #v[3, 0]))) (working (.detail 3 0x201#32 0x41000000#32))).proc.answer
      = some (.error .badDesc)
    ∧ (after (.detailReadAnswer (.current [] (.ok #v[0x20, 0x1000#32])))
        (working (.detail 3 0x201#32 0x41000000#32))).proc.current =
      some ⟨.read (at_ 0x41000000#32) 0, .forward 0x1000#32⟩ := by decide

/-- A write at 0x4100_0000 whose descriptor's detail read is answered. -/
def detailOfWrite (w0 w2 : Word) : Option ProcAnswer :=
  (after (.detailReadAnswer (.current [] (.ok #v[w2, 0x200])))
    { carrying idle .transit with
      proc := ⟨some ⟨.write (writeOf 0x41000000#32 1 []), .detail 3 w0 0x41000000#32⟩, none⟩ }).proc.answer

theorem test_detail_kinds :
    (after (.detailReadAnswer (.current [] (.ok #v[0, 0])))
      (working (.detail 3 0x211#32 0x41000000#32))).proc.current =
      some ⟨.read (at_ 0x41000000#32) 0, .forward 0x41000000#32⟩
    ∧ (after (.detailReadAnswer (.current [] (.ok #v[0, 0])))
      (working (.detail 3 0x221#32 0x41000000#32))).proc.current =
      some ⟨.read (at_ 0x41000000#32) 0, .forward 0x41000000#32⟩
    ∧ detailOfWrite 0x211#32 0#32 = some (.error .noJob) ∧ detailOfWrite 0x221#32 0#32 = some (.error .access)
    ∧ detailOfWrite 0x001#32 0x10#32 = some (.error .access) ∧ detailOfWrite 0x001#32 0x20#32 = none := by
  decide

/-- A cache with every entry valid, entry 3 alone of priority 0. -/
def fullCache : Cache :=
  ⟨(Vector.replicate 8 (some ⟨0#5, ⟨0, 0, 1#32, 0⟩⟩)).set 3 (some ⟨0#5, ⟨0, 0, 0, 0⟩⟩),
   [0, 1, 2, 3, 4, 5, 6, 7]⟩

theorem test_cache_fill :
    (∀ i : Fin 8, fullCache.entries[i] ≠ none) ∧ (∀ i : Fin 8, i ∈ fullCache.recency)
    ∧ fullCache.recency.Nodup ∧ (∀ i : Fin 8, entryPriority fullCache i ≤ 2)
    ∧ (fullCache.fill ⟨9#5, ⟨0, 0, 2#32, 0⟩⟩).recency = [3, 0, 1, 2, 4, 5, 6, 7]
    ∧ (Cache.reset.fill ⟨9#5, ⟨0, 0, 0, 0⟩⟩).recency = [0] := by decide

/-! ### The control page -/

theorem test_page_words :
    wordDecision idle 0 ⟨0, 0xE#4⟩ = .refused .partialWord ∧ wordDecision idle 0x1FC word = .taken
    ∧ wordDecision { idle with job := { Job.reset with journal := some 0 } } 0 word =
      .refused .configLocked
    ∧ wordDecision { idle with job := { Job.reset with opening := some (0, 0) } } 0 word = .retry
    ∧ wordDecision (withStation idle .live .running) 0x230 word = .refused .configLocked
    ∧ wordDecision (withStation idle .live .running) 0x234 word = .taken
    ∧ wordDecision idle 0x230 word = .taken
    ∧ wordDecision (idle.setStation 0 { Station.reset with progress := .releasing }) 0x23C word = .retry
    ∧ wordDecision idle 0x23C word = .taken := by decide

theorem test_page_job_words :
    wordDecision { idle with job := { Job.reset with state := .opened } } 0x380 word =
      .refused .configLocked
    ∧ wordDecision idle 0x380 word = .taken ∧ wordDecision idle 0x384 word = .taken
    ∧ wordDecision { idle with job := { Job.reset with opening := some (0, 0) } } 0x3BC word = .retry
    ∧ wordDecision idle 0x3BC word = .taken ∧ wordDecision idle 0x3C0 word = .taken
    ∧ wordDecision idle 0x3FC word = .taken
    ∧ wordDecision idle 0x400 word = .refused .statusWrite := by decide

theorem test_page_writes :
    inPage regions (byteAddr (at_ 0xF800#32)) = true
    ∧ decisions idle 0 (txnWords (writeOf 0xF800#32 1 [2])) = [.taken, .taken]
    ∧ decisions { idle with job := { Job.reset with opening := some (0, 0) } } 0
      (txnWords (writeOf 0xF800#32 1 [])) = [.retry]
    ∧ decisions idle 0x400 (txnWords (writeOf 0xFC00#32 1 [])) = [.refused .statusWrite]
    ∧ inOneBlock (.write (writeOf 0xF800#32 1 [2])) = true := by decide

/-- The forms of a taken setting: a code-0 command, a word of the job block, and a table write. -/
theorem test_words_taken : (7#32).extractLsb' 0 4 ≠ 0#4 ∧ (0x70#32).extractLsb' 0 4 = 0#4
    ∧ idle.stations[(0 : StationId)].progress = .idle ∧ idle.job.opening = none
    ∧ idle.job.state = .noJob
    ∧ decisions idle 0x1F8 (txnWords (writeOf 0xF9F8#32 1 [2])) = [.taken, .taken]
    ∧ (after (.controlBlockWrite ⟨pageWordAddr idle 0x380, ⟨1, 0xF#4⟩, []⟩) idle).shadows.job[0] = 1#32
    ∧ (after (.controlBlockWrite ⟨pageWordAddr idle 0x3BC, ⟨0x70, 0xF#4⟩, []⟩) idle).shadows.job[15] =
      0x70#32 := by decide

theorem test_settings_writable : idle.stations[(5 : StationId)].feed = .off
    ∧ (after (.controlBlockWrite ⟨pageWordAddr idle 0x230, ⟨0x1005#32, 0xF#4⟩, []⟩)
        idle).links[(0 : StationId)].line.divisor = 5#8 := by decide

/-- Station 0 with its break timer running since 0, at a time, under the word 14 given. -/
def timing (w : Word) (now : Nat) : State :=
  { setStationShadow (idle.setBreak 0 ⟨true, false, some 0⟩) 0 14 w with now := now }

/-- Before either filter time, at the new one, and at the old one. -/
theorem test_filter_write_boundary :
    (after (.breakFilterTimeWrite 0 1) (timing 2 3071)).breaks[(0 : StationId)] = ⟨true, false, some 0⟩
    ∧ (after (.breakFilterTimeWrite 0 1) (timing 2 3072)).breaks[(0 : StationId)] = ⟨true, true, none⟩
    ∧ (after (.breakFilterTimeWrite 0 2) (timing 1 3071)).breaks[(0 : StationId)] = ⟨true, false, some 0⟩
    ∧ (after (.breakFilterTimeWrite 0 2) (timing 1 3072)).breaks[(0 : StationId)] = ⟨true, true, none⟩ := by
  decide

theorem test_acknowledge :
    (after (.acknowledgeWrite 0x40001#32) { idle with
      writer := { Writer.reset with pending := 0x40003#32 }
      log := some ⟨.unmapped, .processor, false, 0, 0, none, 0⟩ }).writer.pending = 2#32
    ∧ (after (.acknowledgeWrite 0x40001#32) { idle with
      writer := { Writer.reset with pending := 0x40003#32 }
      log := some ⟨.unmapped, .processor, false, 0, 0, none, 0⟩ }).log = none
    ∧ (after (.interruptEnableWrite 2) { idle with
      writer := { Writer.reset with pending := 2#32 } }).irqAsserted = true := by decide

/-! ### The journal and the commit -/

/-- A job of 64 slots at 0x4100_0000 open with the frontier at 1208, its window cached. -/
def journaling (p : Policy) : State :=
  { cached 0x211#32 0#32 with
    job := { Job.reset with
      state := .opened, journal := some 3#5, base := 0x41000000#32, slots := 64, start := 1200#16
      frontier := 1208#16, counter := 8#16, policy := p } }

/-- The frontier's slot is 56: 1208 mod 64. -/
def frontierAt : Word := 0x41000700#32

/-- The whole line record written into the frontier's slot. -/
def lineWrite : WriteTxn := writeOf frontierAt masterLine[0] (masterLine.toList.drop 1)

theorem test_writes_journal (t : WriteTxn) (ha : t.addr = at_ frontierAt)
    (hb : inOneBlock (.write t) = true) (p : Policy) :
    WritesJournal (journaling p) regions (.journalWindowWrite t) t 0 := by
  refine ⟨Or.inr (Or.inl rfl), ⟨rfl, rfl, rfl, by decide⟩, hb, ?_, ?_, by simp [journaling], ?_⟩
  · rw [ha]
    decide
  · rw [ha]
    decide
  · exact ⟨⟨3#5, ⟨0x211#32, 0x41000000#32, 0#32, 0#32⟩⟩, by rw [ha]; cases p <;> decide, by decide, rfl⟩

theorem test_line_write_reaches : WritesJournal (journaling .keep) regions (.journalWindowWrite lineWrite)
    lineWrite 0 := test_writes_journal lineWrite rfl (by decide) .keep

theorem test_line_write_fills : StoresWhole (journaling .keep) lineWrite
    ∧ FillsRecord (journaling .keep) lineWrite := by
  refine ⟨⟨rfl, by decide, by decide⟩, ?_⟩
  unfold FillsRecord storesTo
  decide

theorem test_line_write_holders : HoldersAfter (journaling .keep) lineWrite masterLine := by
  have h : ∀ j : Fin 8, storesTo lineWrite j := by
    unfold storesTo
    decide
  have e : ∀ j : Fin 8, (txnWords lineWrite)[j.val]? = some (asWhole masterLine[j]) := by decide
  intro j
  refine ⟨fun _ => ⟨asWhole masterLine[j], ?_, rfl⟩, fun hn => absurd (h j) hn⟩
  have := e j
  rw [show lineWrite.addr.toNat % 8 = 0 by decide, Nat.sub_zero]
  exact this

theorem test_part_write_stores : StoresWhole (journaling .keep) (writeOf frontierAt 7 [])
    ∧ ¬FillsRecord (journaling .keep) (writeOf frontierAt 7 [])
    ∧ (after (.journalWindowWrite (writeOf frontierAt 7 [])) (journaling .keep)).job.mask = 1#8 := by
  refine ⟨⟨rfl, by decide, by decide⟩, ?_, by decide⟩
  unfold FillsRecord storesTo
  decide

/-- The refusals of a journal write: partial words, and slots whose latest sequence is retained or not. -/
theorem test_journal_refusals :
    (after (.journalWindowWrite ⟨at_ frontierAt, ⟨0, 7#4⟩, []⟩) (journaling .keep)).proc.answer =
      some (.error .partialWord)
    ∧ (after (.journalWindowWrite (writeOf 0x410006E0#32 0 [])) (journaling .keep)).proc.answer =
      some (.error .rewrite)
    ∧ (after (.journalWindowWrite (writeOf 0x41000600#32 0 [])) (journaling .keep)).proc.answer =
      some (.error .rewrite)
    ∧ (after (.journalWindowWrite (writeOf 0x410005E0#32 0 [])) (journaling .keep)).proc.answer =
      some (.error .gap)
    ∧ (after (.journalWindowWrite (writeOf frontierAt 0 []))
        { journaling .keep with job := { (journaling .keep).job with state := .closed } }).proc.answer =
      some (.error .noJob) := by decide

theorem test_record_checks :
    (after (.journalWindowWrite (writeOf frontierAt 0 (List.replicate 7 0))) (journaling .keep)).proc.answer
      = some (.error .badCheck)
    ∧ (after (.journalWindowWrite (writeOf frontierAt masterArc[0] (masterArc.toList.drop 1)))
        (journaling .keep)).proc.answer = some (.error .badSeq)
    ∧ (after (.journalWindowWrite (writeOf frontierAt (recordOf (1208#32 ||| place 7 16) 0 0 0 0 0 0)[0]
        ((recordOf (1208#32 ||| place 7 16) 0 0 0 0 0 0).toList.drop 1))) (journaling .keep)).proc.answer
      = some (.error .badFormat)
    ∧ (after (.journalWindowWrite lineWrite) (journaling .keep)).proc.current =
      some ⟨.write lineWrite, .journalWrite []⟩ := by decide

/-- A burst that fills the record and fails its checks leaves the mask as it was and marks the job
record, since the mask has changed between. -/
theorem test_refused_burst_marks :
    (after (.journalWindowWrite (writeOf frontierAt 0 (List.replicate 7 0))) (journaling .keep)).job =
      (journaling .keep).job
    ∧ (after (.journalWindowWrite (writeOf frontierAt 0 (List.replicate 7 0)))
        (journaling .keep)).writer.marks.job = true := by decide

/-- Station 0 at frontier − N: RETRY under KEEP, LOST under YIELD; LIVE and full: RETRY under STALL. -/
theorem test_capacity :
    (after (.journalWindowWrite lineWrite) ((journaling .keep).setStation 0
      { Station.reset with feed := .detached, post := 1144#16 })).proc.answer = some .retry
    ∧ (after (.journalWindowWrite lineWrite) ((journaling .yield).setStation 0
      { Station.reset with feed := .detached, post := 1144#16 })).stations[(0 : StationId)].feed =
      .lost .overwritten
    ∧ (after (.journalWindowWrite lineWrite) ((journaling .keep).setStation 0
      { Station.reset with feed := .live, capacity := 16, post := 20#16, done := 4#16 })).proc.answer =
      some .retry := by decide

/-- The line record's commit with its journal write or a ring write in flight, station 0 LIVE. -/
def committedAt (d : Drive) (w : TransitWork) : State :=
  { (carrying (withStation (journaling .keep) .live d) .transit) with
    job := { (journaling .keep).job with holders := masterLine, mask := 0xFF#8, inFlight := true }
    proc := ⟨some ⟨.write lineWrite, w⟩, none⟩ }

def committed (w : TransitWork) : State := committedAt .running w

theorem test_journal_write_answered :
    (after (.journalWriteAnswer (.current [] .ok)) (committed (.journalWrite []))).job.frontier = 1209#16
    ∧ (after (.journalWriteAnswer (.current [] .fault)) (committed (.journalWrite []))).proc.answer =
      some (.error .memFault)
    ∧ (after (.journalWriteAnswer (.current [] .ok)) (committed (.journalWrite [1]))).job.frontier = 1209#16
    ∧ (after (.journalWriteAnswer (.current [] .ok)) (committed (.journalWrite [0]))).stations[(0 : StationId)].drive =
      .fault .travel := by decide

/-- A travel fault of a HELD drive, and of one that stays in FAULT; the feed is DETACHED in both. -/
theorem test_travel_fault :
    transform (committed (.journalWrite [0])).shadows.stations[(0 : StationId)] masterLine = none
    ∧ (after (.journalWriteAnswer (.current [] .ok))
        (committedAt (.held .attach) (.journalWrite [0]))).stations[(0 : StationId)].drive = .fault .travel
    ∧ (after (.journalWriteAnswer (.current [] .ok))
        (committedAt (.fault .memory) (.journalWrite [0]))).stations[(0 : StationId)].drive = .fault .memory
    ∧ (after (.journalWriteAnswer (.current [] .ok))
        (committedAt (.fault .memory) (.journalWrite [0]))).stations[(0 : StationId)].feed =
      .detached := by decide

theorem test_copy_requested :
    transform (halfScale 0#32 60000#32 0#32) masterLine ≠ none
    ∧ (after (.journalWriteAnswer (.current [] .ok)) { committed (.journalWrite [0]) with
      shadows := { Shadows.reset with
        stations := Shadows.reset.stations.set 0 (halfScale 0#32 60000#32 0#32) } }).job.inFlight =
      true := by decide

theorem test_post_write_answered :
    (after (.postWriteAnswer (.current [] .ok)) (committed (.postWrite 0 0 masterLine []))).stations[(0 : StationId)].post
      = 7#16
    ∧ (after (.postWriteAnswer (.current [] .ok)) (committed (.postWrite 1 0 masterLine []))).job.frontier = 1209#16
    ∧ (after (.postWriteAnswer (.current [] .fault)) (committed (.postWrite 0 0 masterLine []))).stations[(0 :
      StationId)].drive = .fault .memory
    ∧ (after (.postWriteAnswer (.current [] .fault))
        (committedAt (.held .attach) (.postWrite 0 0 masterLine []))).stations[(0 : StationId)].drive =
      .fault .memory
    ∧ (after (.postWriteAnswer (.current [] .fault))
        (committedAt (.fault .travel) (.postWrite 0 0 masterLine []))).stations[(0 : StationId)].feed =
      .detached
    ∧ (after (.postWriteAnswer (.current [] .fault))
        (committed (.postWrite 1 0 masterLine []))).stations[(1 : StationId)] = Station.reset := by decide

/-! ### Commands -/

theorem test_job_commands :
    (after (.openJob [] 0 3 1200) idle).job.opening = some (3#5, 1200#16)
    ∧ (after (.openJob [] 0 3 1200) (withStation idle .live .running)).job.lastResult = .badState
    ∧ (after (.closeJob (List.replicate 7 0) 0) (journaling .keep)).job.state = .closed
    ∧ (after (.closeJob [] 0) idle).job.lastResult = .badState
    ∧ (after (.closeJob [] 0) { idle with job := { Job.reset with state := .closed } }).job.lastResult =
      .ok
    ∧ (after (.jobBadCmd [] 3 0) idle).job.lastResult = .badCmd
    ∧ (after (.jobBadCmd [] 15 0) idle).job.lastCommand = 15#4 := by decide

theorem test_job_write_taken : (List.replicate 7 (0 : Word)).length ≤ 7 ∧ idle.job.opening = none :=
  ⟨by decide, rfl⟩

/-- A journal descriptor of 64 slots, and a ring descriptor of 16 slots for station 0. -/
def journalDesc : Vector Word 4 := #v[0x211#32, 0x41000000#32, 0, 0]
def ringDesc : Vector Word 4 := #v[0x021#32, 0x42000000#32, 0, 0]

theorem test_descriptors_accepted : OpensJournal 0xF800#32 journalDesc
    ∧ AttachesRing 0xF800#32 0 ringDesc ∧ ¬AttachesRing 0xF800#32 1 ringDesc
    ∧ ¬OpensJournal 0xF800#32 ringDesc := by
  unfold OpensJournal AttachesRing DescriptorSound windowBytes
  decide

/-- The job slot's OPEN with its read in flight. -/
def opening : State :=
  { carrying idle .commandJob with job := { Job.reset with opening := some (3#5, 1200#16) } }

theorem test_open_completes :
    (after (.openComplete (.current [] (.ok journalDesc))) opening).job.state = .opened
    ∧ (after (.openComplete (.current [] (.ok journalDesc))) opening).job.slots = 64
    ∧ (after (.openComplete (.current [] (.ok ringDesc))) opening).job.lastResult = .badArg
    ∧ (after (.openComplete (.current [] .fault)) opening).job.lastResult = .badArg
    ∧ (after (.openComplete (.current [] (.ok journalDesc))) (opening.setStation 5
      { Station.reset with feed := .detached })).job.lastResult = .badState := by decide

theorem test_station_write_taken : StationWriteTaken (withStation idle .live .running) 0 [1, 2]
    ∧ StationWriteTaken idle 0 (List.replicate 7 0) :=
  ⟨⟨by decide, Or.inl (by decide), rfl⟩, ⟨by decide, Or.inr rfl, rfl⟩⟩

theorem test_attach_taken :
    (after (.attach 0 [] 0 5) (withStation idle .live .running)).stations[(0 : StationId)].lastResult =
      .badState
    ∧ (after (.attach 0 [] 0 5) idle).stations[(0 : StationId)].lastResult = .noJob
    ∧ (after (.attach 0 [] 0 1208) (journaling .keep)).stations[(0 : StationId)].progress =
      .attaching 0#5 1208#16
    ∧ (after (.stationBadCmd 0 [] 8 0) idle).stations[(0 : StationId)].lastResult = .badCmd := by decide

/-- Station 0's ATTACH at a sequence number with its read in flight. -/
def attaching (q : Seq) : State :=
  (carrying (journaling .keep) (.commandStation 0)).setStation 0
    { Station.reset with progress := .attaching 4#5 q }

theorem test_attach_starts : StartsAt (journaling .keep).job 1208#16
    ∧ StartsAt (journaling .keep).job 1200#16 ∧ ¬StartsAt (journaling .keep).job 1199#16 := by
  unfold StartsAt
  decide

theorem test_attach_completes :
    (after (.attachComplete (.current [] (.ok ringDesc))) (attaching 1208)).stations[(0 : StationId)].feed = .live
    ∧ (after (.attachComplete (.current [] (.ok ringDesc))) (attaching 1200)).stations[(0 : StationId)].feed = .catchup
    ∧ (after (.attachComplete (.current [] (.ok ringDesc))) (attaching 1200)).gate.members = 1#6
    ∧ (after (.attachComplete (.current [] (.ok ringDesc))) (attaching 1199)).stations[(0 : StationId)].lastResult =
      .badArg
    ∧ (after (.attachComplete (.current [] (.ok journalDesc))) (attaching 1208)).stations[(0 : StationId)].lastResult =
      .noRing
    ∧ (after (.attachComplete (.current [] .fault)) (attaching 1208)).stations[(0 : StationId)].lastResult = .noRing := by
  decide

theorem test_detach_reattach :
    (after (.detach 0 [] 0) (withStation idle .live .running)).stations[(0 : StationId)].feed = .detached
    ∧ (after (.detach 0 [] 0) (withStation idle .catchup .running)).stations[(0 : StationId)].feed =
      .detached
    ∧ (after (.detach 0 [] 0) idle).stations[(0 : StationId)].lastResult = .badState
    ∧ (after (.reattach 0 [] 0) (withStation idle .detached .running)).stations[(0 : StationId)].feed =
      .catchup
    ∧ (after (.reattach 0 [] 0) idle).stations[(0 : StationId)].lastResult = .badState := by decide

theorem test_hold_clear :
    (after (.hold 0 [] 0) (withStation idle .live .running)).stations[(0 : StationId)].drive =
      .held .operator
    ∧ (after (.hold 0 [] 0) (withStation idle .live .running)).links[(0 : StationId)].slot = .halt 2#8
    ∧ (after (.hold 0 [] 0) (withStation idle .live (.held .attach))).stations[(0 : StationId)].drive =
      .held .attach
    ∧ (after (.hold 0 [] 0) (withStation idle .live (.fault .travel))).stations[(0 :
      StationId)].lastResult = .badState
    ∧ (after (.clear 0 [] 0) (withStation idle .live (.fault .travel))).stations[(0 : StationId)].drive =
      .held .cleared
    ∧ (after (.clear 0 [] 0) idle).stations[(0 : StationId)].lastResult = .badState := by decide

/-- Station 0 HELD with nothing against a RESUME. -/
def resumable : State := withStation idle .live (.held .attach)

theorem test_resume :
    (after (.resume 0 [] 0) { resumable with breaks := Vector.replicate 6 ⟨false, false, none⟩
      }).stations[(0 : StationId)].drive = .running
    ∧ (after (.resume 0 [] 0) idle).stations[(0 : StationId)].lastResult = .badState
    ∧ (after (.resume 0 [] 0) { resumable with stop := ⟨false, false, none⟩ }).stations[(0 :
      StationId)].lastResult = .stopActive
    ∧ (after (.resume 0 [] 0) (resumable.setBreak 0 ⟨true, true, none⟩)).stations[(0 :
      StationId)].lastResult = .breakActive
    ∧ (after (.resume 0 [] 0) (resumable.setLink 0 { Link.reset with slot := .halt 1 })).stations[(0 :
      StationId)].lastResult = .haltPending := by decide

theorem test_release :
    (after (.release 0 [] 0) idle).stations[(0 : StationId)].lastResult = .badState
    ∧ (after (.release 0 [] 0) resumable).stations[(0 : StationId)].feed = .off
    ∧ (after (.release 0 [] 0) (withStation idle .live .running)).stations[(0 : StationId)].progress =
      .releasing
    ∧ (after (.releaseComplete 0) (resumable.setStation 0
      { resumable.stations[(0 : StationId)] with progress := .releasing })).stations[(0 :
      StationId)].lastCommand = 7#4 := by decide

theorem test_link_quiet : LinkQuiet Link.reset ∧ ¬LinkQuiet { Link.reset with slot := .halt 1 } :=
  ⟨⟨rfl, fun _ h => ControlSlot.noConfusion h⟩, fun h => h.2 1 rfl⟩

/-! ### The replay engine -/

/-- Station 0 in CATCHUP behind the frontier. -/
def behind (d : Drive) : State := withStation (journaling .keep) .catchup d

theorem test_replay_turn : (behind .running).replay.turn = none
    ∧ seqBefore (behind .running).stations[(0 : StationId)].post (behind .running).job.frontier = true
    ∧ (after .replayTurnGrant (behind .running)).replay =
      ⟨0, some ⟨0, 6#16, 0x420000C0#32, false, none⟩⟩
    ∧ (after .replayTurnGrant idle).replay = Replay.reset := by decide

/-- A turn of station 0 for sequence 1208 with a transaction in flight. -/
def turning (d : Drive) (marked : Bool) (copy : Option Record) : State :=
  { carrying (behind d) .replay with
    replay := ⟨0, some ⟨0, 1208#16, 0x42000100#32, marked, copy⟩⟩
    shadows := { Shadows.reset with
      stations := Shadows.reset.stations.set 0 (halfScale 0#32 60000#32 0#32) } }

theorem test_replay_read :
    (after (.replayReadAnswer (.current [] .fault)) (turning .running true none)).stations[(0 : StationId)].feed =
      .catchup
    ∧ (after (.replayReadAnswer (.current [] .fault)) (turning .running false none)).stations[(0 : StationId)].feed =
      .lost .memory
    ∧ (after (.replayReadAnswer (.current [] (.ok masterArc))) (turning .running false none)).stations[(0 :
      StationId)].feed = .lost .check
    ∧ (after (.replayReadAnswer (.current [] (.ok masterMark))) (turning .running false none)).stations[(0 :
      StationId)].post = 1209#16 := by decide

/-- A LINE record that no setting of station 0 lets pass: its x leaves the limits. -/
def farLine : Record := recordOf 1208#32 0x7FFFFFFF#32 0 0 0 0 1800#32

theorem test_replay_travel :
    transform (halfScale 0#32 60000#32 0#32) farLine = none
    ∧ (after (.replayReadAnswer (.current [] (.ok farLine))) (turning .running false none)).stations[(0 :
      StationId)].drive = .fault .travel
    ∧ (after (.replayReadAnswer (.current [] (.ok farLine))) (turning (.held .attach) false none)).stations[(0 :
      StationId)].drive = .fault .travel
    ∧ (after (.replayReadAnswer (.current [] (.ok farLine))) (turning (.fault .memory) false none)).stations[(0 :
      StationId)].drive = .fault .memory := by decide

theorem test_replay_write :
    (after (.replayWriteAnswer (.current [] .ok)) (turning .running false (some masterLine))).replay.turn = none
    ∧ (after (.replayWriteAnswer (.current [] .ok)) ((turning .running false (some masterLine)).setStation 0
      { Station.reset with feed := .catchup, post := 1208#16 })).stations[(0 : StationId)].feed = .live
    ∧ (after (.replayWriteAnswer (.current [] .ok)) ((turning .running false (some masterLine)).setStation 0
      Station.reset)).stations[(0 : StationId)].feed = .off
    ∧ (after (.replayWriteAnswer (.current [] .fault)) (turning .running false (some masterLine))).stations[(0 :
      StationId)].feed = .lost .memory
    ∧ (after (.replayWriteAnswer (.current [] .fault)) ((turning .running false (some masterLine)).setStation 0
      { Station.reset with feed := .live })).stations[(0 : StationId)].feed = .live := by decide

/-! ### The memory port -/

theorem grantRank_transit (s : State) : grantRank s .transit = 0 := rfl
theorem grantRank_job (s : State) : grantRank s .commandJob = 1 := rfl
theorem grantRank_station (s : State) (k : StationId) : grantRank s (.commandStation k) = 2 + k.val :=
  rfl
theorem grantRank_status (s : State) : grantRank s .status = 8 := rfl
theorem grantRank_drain (s : State) (k : StationId) :
    grantRank s (.drain k) = 9 + (k - (s.port.drainPos + 1)).val := rfl
theorem grantRank_replay (s : State) : grantRank s .replay = 15 := rfl

/-- With no late request, the first that stands is granted. -/
theorem grantedNext_of {s : State} {r : Requester} (h1 : s.porst = false) (h2 : s.port.inFlight = none)
    (h3 : s.port.hold = none) (h4 : s.port.late = []) (h5 : standing s r = true)
    (h6 : ∀ q, grantRank s q < grantRank s r → standing s q = false) : GrantedNext s r :=
  ⟨h1, h2, h3, ⟨h5, fun h => absurd (h4 ▸ h) List.not_mem_nil⟩,
    fun q hq h => Bool.false_ne_true ((h6 q hq).symm.trans h.1)⟩

/-- With one request standing, no other requester's does. -/
theorem test_granted_transit (p : ProcTxn) (w : TransitWork) :
    GrantedNext { idle with proc := ⟨some ⟨p, w⟩, none⟩ } .transit := by
  refine grantedNext_of rfl rfl rfl rfl rfl fun q h => ?_
  cases q with
  | transit => exact absurd h (Nat.lt_irrefl _)
  | commandJob => exact absurd h (Nat.not_lt_zero _)
  | commandStation k => exact absurd h (Nat.not_lt_zero _)
  | status => exact absurd h (Nat.not_lt_zero _)
  | drain k => exact absurd h (Nat.not_lt_zero _)
  | replay => exact absurd h (Nat.not_lt_zero _)

theorem test_granted_job :
    GrantedNext { idle with job := { Job.reset with opening := some (3#5, 5#16) } } .commandJob := by
  refine grantedNext_of rfl rfl rfl rfl (by decide) fun q h => ?_
  cases q with
  | transit => decide
  | commandJob => exact absurd h (by simp only [grantRank_job]; omega)
  | commandStation k => exact absurd h (by simp only [grantRank_station, grantRank_job]; omega)
  | status => exact absurd h (by simp only [grantRank_status, grantRank_job]; omega)
  | drain k => exact absurd h (by simp only [grantRank_drain, grantRank_job]; omega)
  | replay => exact absurd h (by simp only [grantRank_replay, grantRank_job]; omega)

theorem test_granted_station :
    GrantedNext (idle.setStation 0 { Station.reset with progress := .attaching 3#5 5#16 })
      (.commandStation 0) := by
  refine grantedNext_of rfl rfl rfl rfl (by decide) fun q h => ?_
  cases q with
  | transit => decide
  | commandJob => decide
  | commandStation k => exact absurd h (by simp only [grantRank_station]; omega)
  | status => exact absurd h (by simp only [grantRank_status, grantRank_station]; omega)
  | drain k => exact absurd h (by simp only [grantRank_drain, grantRank_station]; omega)
  | replay => exact absurd h (by simp only [grantRank_replay, grantRank_station]; omega)

/-- The summary marked, and the pass at its last write. -/
theorem test_granted_status :
    GrantedNext { idle with writer := { Writer.reset with marks := { Marks.reset with summary := true } }
      } .status
    ∧ GrantedNext { idle with writer := { Writer.reset with marks := { Marks.reset with job := true } }
      } .status
    ∧ GrantedNext { idle with boot := { idle.boot with pass := some 61 } } .status := by
  have key : ∀ s : State, s.porst = false → s.port.inFlight = none → s.port.hold = none →
      s.port.late = [] → standing s .status = true → standing s .transit = false → standing s .commandJob = false →
      (∀ k : StationId, standing s (.commandStation k) = false) → GrantedNext s .status := by
    intro s h1 h2 h3 h0 h4 h5 h6 h7
    refine grantedNext_of h1 h2 h3 h0 h4 fun q h => ?_
    cases q with
    | transit => exact h5
    | commandJob => exact h6
    | commandStation k => exact h7 k
    | status => exact absurd h (by simp only [grantRank_status]; omega)
    | drain k => exact absurd h (by simp only [grantRank_drain, grantRank_status]; omega)
    | replay => exact absurd h (by simp only [grantRank_replay, grantRank_status]; omega)
  exact ⟨key _ rfl rfl rfl rfl (by decide) (by decide) (by decide) (by decide),
    key _ rfl rfl rfl rfl (by decide) (by decide) (by decide) (by decide),
    key _ rfl rfl rfl rfl (by decide) (by decide) (by decide) (by decide)⟩

/-- With the drain position at station 5, station 0 is first among the drain requests. -/
theorem test_granted_drain :
    GrantedNext (idle.setLink 0 { Link.reset with drain := some ⟨5#16, 0#32, false⟩ }) (.drain 0) := by
  refine grantedNext_of rfl rfl rfl rfl (by decide) fun q h => ?_
  cases q with
  | transit => decide
  | commandJob => decide
  | commandStation k => revert k; decide
  | status => decide
  | drain k => revert k; decide
  | replay => exact absurd h (by decide)

/-- Every write of the pass is granted with nothing before it. -/
theorem test_granted_pass (n : Nat) :
    GrantedNext { idle with boot := { idle.boot with pass := some n } } .status := by
  refine grantedNext_of rfl rfl rfl rfl rfl fun q h => ?_
  cases q with
  | transit => rfl
  | commandJob => rfl
  | commandStation k =>
    have e : ∀ k : StationId, standing idle (.commandStation k) = false := by decide
    exact e k
  | status => exact absurd h (Nat.lt_irrefl _)
  | drain k => exact absurd h (by simp only [grantRank_drain, grantRank_status]; omega)
  | replay => exact absurd h (by simp only [grantRank_replay, grantRank_status]; omega)

/-- A commit whose journal write is in flight, a drain read standing. -/
def committingBesideDrain : State :=
  { (committed (.journalWrite [0])).setLink 1 { Link.reset with drain := some ⟨5#16, 0#32, false⟩ } with
    shadows := { Shadows.reset with
      stations := Shadows.reset.stations.set 0 (halfScale 0#32 60000#32 0#32) } }

/-- The requester whose transaction the port carries after the commit's answer and a grant. -/
def grantedAfter (late : List Requester) : Option Requester :=
  (after .arbiterGrant (after (.journalWriteAnswer (.current late .ok))
    committingBesideDrain)).port.inFlight.map InFlight.who

/-- The commit's ring write meets the grant before it or after it (R175): then the drain read, which
stood before, is granted ahead of it. The drain read itself cannot come late. -/
theorem test_late_request : grantedAfter [] = some .transit
    ∧ grantedAfter [.transit] = some (.drain 1) ∧ grantedAfter [.transit, .drain 1] = some (.drain 1)
    ∧ grantedAfter [.drain 1] = some .transit := by decide

/-- A late request that stands alone comes to a free and idle port, and is granted. -/
theorem test_late_alone :
    (after .arbiterGrant (after (.scanReadAnswer (.current [.transit] (.ok #v[0, 0])))
      (working (.scan [])))).port.inFlight.map InFlight.who = some .transit := by decide

/-- The late answer to a write of the pass that a bus reset has abandoned is not the new write's. -/
theorem test_abandoned_answer :
    (after (.initWriteAnswer .abandoned) (passing 0 none)).boot.pass = some 0
    ∧ (after (.initWriteAnswer (.current [] .ok)) (passing 0 none)).boot.pass = some 1 := by decide

theorem test_granted_replay :
    GrantedNext { behind .stopped with replay := ⟨0, some ⟨0, 6#16, 0#32, false, none⟩⟩ } .replay := by
  refine grantedNext_of rfl rfl rfl rfl (by decide) fun q h => ?_
  cases q with
  | transit => decide
  | commandJob => decide
  | commandStation k => revert k; decide
  | status => decide
  | drain k => revert k; decide
  | replay => exact absurd h (by decide)

theorem test_status_chosen :
    (after .arbiterGrant { idle with writer := { Writer.reset with
      marks := { Marks.reset with job := true } } }).writer.position = 1
    ∧ (after .arbiterGrant { idle with boot := { idle.boot with pass := some 0 } }).port.inFlight.isSome
      = true
    ∧ (after .arbiterGrant { idle with boot := { idle.boot with pass := some 61 } }).port.inFlight.isSome
      = true := by decide

/-- A status write in flight. -/
def writing (upper : Option (Word × Record)) : State :=
  { carrying idle .status with
    writer := { Writer.reset with write := some ⟨some .job, 2#32, upper⟩ } }

theorem test_status_write_answered :
    (after (.statusWriteAnswer (.current [] .ok)) (writing none)).writer.pending = 2#32
    ∧ (after (.statusWriteAnswer (.current [] .ok)) (writing (some (0, zeroRecord)))).writer.pending = 0#32
    ∧ (after (.statusWriteAnswer (.current [] .fault)) (writing none)).writer.owed.job = 2#32
    ∧ (writing none).boot.pass = none := by decide

/-- A drain read of station 0 for sequence 5 in flight. -/
def draining (marked : Bool) (d : Drive) : State :=
  carrying ((withStation idle .live d).setLink 0
    { Link.reset with drain := some ⟨5#16, 0x420000A0#32, marked⟩ }) (.drain 0)

theorem test_drain_answered :
    (after (.drainReadAnswer (.current [] (.ok masterLine))) (draining true .running)).links[(0 :
      StationId)].staging = .empty
    ∧ (after (.drainReadAnswer (.current [] (.ok (recordOf 5 0 0 0 0 0 1)))) (draining false .running)).links[(0 :
      StationId)].staging = .copy 5#16 (recordOf 5 0 0 0 0 0 1)
    ∧ (after (.drainReadAnswer (.current [] (.ok masterLine))) (draining false .running)).stations[(0 :
      StationId)].drive = .fault .ringCheck
    ∧ (after (.drainReadAnswer (.current [] .fault)) (draining false (.held .attach))).stations[(0 : StationId)].drive =
      .fault .memory := by decide

/-! ### The drive links -/

/-- A character read as written. -/
def char (b : Byte) : SampledChar := ⟨none, b, false, true, true⟩

theorem test_characters :
    (after (.characterComplete 0 (char 0xA4)) idle).links[(0 : StationId)].rx =
      some ⟨.received, [0xA4#8], 1, false, 0⟩
    ∧ (after (.characterComplete 0 ⟨none, 0, false, false, true⟩) idle).links[(0 :
      StationId)].waitMark = true
    ∧ (after (.characterComplete 0 (char 1)) (idle.setLink 0 { Link.reset with
        waitMark := true })).links[(0 : StationId)].rx = none
    ∧ (after (.characterComplete 0 (char 7)) (idle.setLink 0 { Link.reset with
        rx := some ⟨.received, [0xA4#8], 1, false, 0⟩ })).links[(0 : StationId)].rx =
      some ⟨.received, [0xA4#8, 7#8], 2, false, 0⟩
    ∧ (after (.characterComplete 0 (char 7)) (idle.setLink 0 { Link.reset with
        queue := [.flt 1, .flt 2] })).stations[(0 : StationId)].counters.overruns = 1#16 := by decide

/-- With two stop bits, the line has returned to mark exactly when the second is at mark. -/
theorem test_second_stop_bit :
    let two : LineSettings := { LineSettings.reset with twoStopBits := true }
    ((after (.characterComplete 0 ⟨some two, 0, false, false, true⟩) idle).links[(0 :
        StationId)].waitMark = false
      ∧ ((after (.characterComplete 0 ⟨some two, 0, false, false, true⟩) idle).links[(0 :
        StationId)].rx.map RxFrame.tainted) = some true)
    ∧ (after (.characterComplete 0 ⟨some two, 0, false, true, false⟩) idle).links[(0 :
        StationId)].waitMark = true := by decide

/-- A frame of the given bytes received, or dropped. -/
def framed (m : RxMode) (bs : List Byte) : State :=
  idle.setLink 0 { Link.reset with rx := some ⟨m, bs, bs.length, false, 0⟩ }

theorem test_frame_ends :
    (after (.frameEnd 0) (framed .received [0xA1#8, 0xD2#8, 0x04#8, 0x89#8])).links[(0 :
      StationId)].queue = [.acc 1234#16]
    ∧ (after (.frameEnd 0) (framed .received [0xA2#8, 0xD2#8, 0x04#8, 0x88#8])).links[(0 :
      StationId)].queue = [.done 1234#16]
    ∧ (after (.frameEnd 0) (framed .received [0xA3#8, 0xD2#8, 0x04#8, 0x01#8, 0x86#8])).links[(0 :
      StationId)].queue = [.nak 1234#16 1#8]
    ∧ (after (.frameEnd 0) (framed .received [0xA4#8, 0x07#8, 0x55#8])).links[(0 : StationId)].queue =
      [.flt 7#8]
    ∧ (after (.frameEnd 0) (framed .received [0x51#8])).stations[(0 : StationId)].counters.linkErrors =
      1#16
    ∧ (after (.frameEnd 0) (framed .overrun [])).stations[(0 : StationId)] = Station.reset := by decide

theorem test_stale_while_off :
    (after (frameRow 0 (.flt 1)) (idle.setLink 0 { Link.reset with queue := [.flt 1] })).stations[(0 :
      StationId)].counters.stale = 1#16
    ∧ (after (frameRow 0 (.nak 5 3)) (idle.setLink 0 { Link.reset with queue := [.nak 5 3] })).stations[(0 :
      StationId)].counters.stale = 1#16 := by decide

theorem test_acc_full :
    (after (.accFrame 0) (sending .waiting (.acc 5))).stations[(0 : StationId)].send = 6#16
    ∧ (after (.accFrame 0) (sending .waiting (.acc 4))).stations[(0 : StationId)].counters.stale = 1#16
    ∧ (after (.nakFull 0) (sending .waiting (.nak 5 2))).links[(0 : StationId)].fullWait = true
    ∧ (after (.nakFull 0) (sending .waiting (.nak 4 2))).stations[(0 : StationId)].counters.stale = 1#16 := by
  decide

theorem test_done :
    (after (.doneFrame 0) (sending .waiting (.done 4))).stations[(0 : StationId)].done = 5#16
    ∧ (after (.doneFrame 0) (sending .waiting (.done 5))).stations[(0 : StationId)].counters.stale = 1#16
    ∧ (after (.doneFrame 0) ((sending .waiting (.done 4)).setStation 0 { Station.reset with
        feed := .live, drive := .held .attach, post := 6, send := 4, done := 4 })).stations[(0 :
      StationId)].send = 5#16 := by decide

/-- The retry limit of station 0 at 1, and the retry count of its link. -/
def retrying (count : Nat) : State :=
  let s := sending .waiting (.nak 5 1)
  { s.setLink 0 { s.links[(0 : StationId)] with retry := count, ackTimer := some ⟨0, 48000⟩ } with
    shadows := { Shadows.reset with
      stations := Shadows.reset.stations.set 0 (Block.stationReset.set 12 (place 1 16)) } }

theorem test_retry_limit :
    (after (.nakCheck 0) (retrying 0)).links[(0 : StationId)].outstanding = some ⟨5#16, .resend⟩
    ∧ (after (.nakCheck 0) (retrying 1)).stations[(0 : StationId)].drive = .fault .linkTimeout
    ∧ (after (.nakCheck 0) (sending .onWire (.nak 5 1))).stations[(0 : StationId)].counters.stale = 1#16
    ∧ (after (.ackTimerExpiry 0) (retrying 0)).now = 48000
    ∧ (after (.ackTimerExpiry 0) (retrying 1)).stations[(0 : StationId)].drive = .fault .linkTimeout := by
  decide

theorem test_refused_and_faulted :
    (after (.nakTravel 0) (sending .waiting (.nak 5 3))).stations[(0 : StationId)].drive =
      .fault .driveRefused
    ∧ (after (.nakTravel 0) (sending .waiting (.nak 4 0))).stations[(0 : StationId)].counters.stale =
      1#16
    ∧ (after (.fltFrame 0) (sending .waiting (.flt 9))).stations[(0 : StationId)].drive =
      .fault (.driveFault 9#8) := by decide

/-- Station 0 RUNNING with the copy of send staged and READY asserted. -/
def ready (c : ControlSlot) (o : Option OutstandingSeg) : State :=
  { (withStation idle .live .running).setLink 0 { Link.reset with
      staging := .copy 5#16 masterMark, ready := true, slot := c, outstanding := o } with
    shadows := { Shadows.reset with
      stations := Shadows.reset.stations.set 0 (Block.stationReset.set 12 (place 2 12)) } }

theorem test_frames_begin :
    (after (.haltBegin 0) (ready (.halt 3) none)).links[(0 : StationId)].tx =
      some ⟨.halt, [0x52#8, 0x03#8, 0xAB#8], 480⟩
    ∧ (after (.goBegin 0) (ready .go none)).links[(0 : StationId)].tx = some ⟨.go, [0x53#8, 0xAD#8], 480⟩
    ∧ ((after (.segBegin 0) (ready .empty none)).links[(0 : StationId)].tx.map Tx.kind) =
      some (.seg 5#16 false)
    ∧ ((after (.resendBegin 0) (ready .empty (some ⟨5, .resend⟩))).links[(0 : StationId)].outstanding) =
      some ⟨5#16, .onWire⟩
    ∧ (after (.readyChange 0 false) (ready .empty none)).links[(0 : StationId)].ready = false := by decide

/-- With a frame in transmission, and where a condition of R109, R114 or R119 fails, nothing begins. -/
theorem test_frames_stay :
    after (.haltBegin 0) (ready .empty none) = ready .empty none
    ∧ after (.goBegin 0) ((ready .go none).setLink 0 { Link.reset with slot := .go })
      = (ready .go none).setLink 0 { Link.reset with slot := .go }
    ∧ after (.segBegin 0) (ready (.halt 3) none) = ready (.halt 3) none
    ∧ after (.segBegin 0) { ready .empty none with gate := ⟨[⟨4#16, 0#6⟩], 1#6⟩ }
      = { ready .empty none with gate := ⟨[⟨4#16, 0#6⟩], 1#6⟩ }
    ∧ after (.segBegin 0) ((ready .empty none).setLink 0 { Link.reset with ready := true })
      = (ready .empty none).setLink 0 { Link.reset with ready := true }
    ∧ after (.resendBegin 0) (ready .go (some ⟨5, .resend⟩)) = ready .go (some ⟨5, .resend⟩)
    ∧ after (.resendBegin 0) (ready .empty (some ⟨5, .waiting⟩)) = ready .empty (some ⟨5, .waiting⟩)
    ∧ after (.resendBegin 0) ((ready .empty none).setLink 0
        { Link.reset with ready := true, outstanding := some ⟨5, .resend⟩ })
      = (ready .empty none).setLink 0 { Link.reset with ready := true, outstanding := some ⟨5, .resend⟩ } := by
  decide

/-- Station 0 RUNNING with a frame on the wire. -/
def onWire (t : TxKind) (o : Option OutstandingSeg) : State :=
  (withStation idle .live .running).setLink 0 { Link.reset with
    tx := some ⟨t, [0x53#8, 0xAD#8], 0⟩, slot := .halt 3, outstanding := o }

theorem test_frame_transmit_ends :
    (after (.frameTransmitEnd 0) (onWire .halt none)).links[(0 : StationId)].slot = .empty
    ∧ (after (.frameTransmitEnd 0) (onWire .go none)).links[(0 : StationId)].tx = none
    ∧ (after (.frameTransmitEnd 0) (onWire (.seg 5 false) none)).links[(0 : StationId)].outstanding =
      some ⟨5#16, .waiting⟩
    ∧ (after (.frameTransmitEnd 0) (onWire (.seg 5 true) none)).links[(0 : StationId)].outstanding = none
    ∧ (after (.frameTransmitEnd 0) (onWire (.resend 5 false) (some ⟨5, .onWire⟩))).links[(0 :
      StationId)].outstanding = some ⟨5#16, .waiting⟩
    ∧ (after (.frameTransmitEnd 0) (onWire (.seg 6 false) none)).links[(0 : StationId)].outstanding = none
    ∧ (after (.frameTransmitEnd 0) (onWire (.resend 5 false) none)).links[(0 :
      StationId)].outstanding = none
    ∧ after (.haltBegin 0) (onWire .go none) = onWire .go none := by decide

/-- The level of TXDk at bit `n` of a GO frame under settings with even parity and two stop bits. -/
def txdAt (invert : Bool) (n : Nat) : Bool :=
  let set : LineSettings := ⟨2#8, .even, true, invert⟩
  State.txdHigh { idle.setLink 0 { Link.reset with
    line := set, tx := some ⟨.go, goFrame, 0⟩ } with now := n * 48 + 47 } 0

/-- 0x53 then 0xAD, each a start bit, eight data bits from the least significant, the even parity bit
and two stop bits; and mark after them. -/
theorem test_txd :
    (List.range 26).map (txdAt false) =
      [false, true, true, false, false, true, false, true, false, false, true, true,
       false, true, false, true, true, false, true, false, true, true, true, true, true, true]
    ∧ (List.range 26).map (txdAt true) = ((List.range 26).map (txdAt false)).map (!·) := by decide

/-! ### Break and stop inputs -/

/-- Station 0 RUNNING with a break filter time of 64 µs. -/
def filtering : State :=
  { withStation idle .live .running with
    shadows := { Shadows.reset with
      stations := Shadows.reset.stations.set 0 (Block.stationReset.set 14 1#32) } }

theorem test_break_line :
    (after (.breakLineChange 0 true) filtering).breaks[(0 : StationId)] = ⟨true, false, some 0⟩
    ∧ (after (.breakLineChange 0 true) (withStation idle .live .running)).stations[(0 : StationId)].drive
      = .held .breakLine
    ∧ (after (.breakLineChange 0 false) ((withStation idle .live .running).setBreak 0
      ⟨true, true, none⟩)).stations[(0 : StationId)].drive = .running
    ∧ (after (.breakQualifiedChange 0) (filtering.setBreak 0 ⟨true, false, some 0⟩)).now = 3072
    ∧ (after (.breakQualifiedChange 0) (filtering.setBreak 0 ⟨true, false, some 0⟩)).stations[(0 :
      StationId)].drive = .held .breakLine
    ∧ (after (.breakQualifiedChange 0) (filtering.setBreak 0 ⟨false, true, some 0⟩)).stations[(0 :
      StationId)].drive = .running := by decide

/-- A return to the qualified level before the filter time clears the timer; after it, the change that
has stood qualifies first, and the return starts the timer again. -/
theorem test_break_return :
    (after (.breakLineChange 0 false) { filtering.setBreak 0 ⟨true, false, some 0⟩ with
        now := 3071 }).breaks[(0 : StationId)] = ⟨false, false, none⟩
    ∧ (after (.breakLineChange 0 false) { filtering.setBreak 0 ⟨true, false, some 0⟩ with
        now := 3072 }).breaks[(0 : StationId)] = ⟨false, true, some 3072⟩
    ∧ (after (.breakLineChange 0 false) { filtering.setBreak 0 ⟨true, false, some 0⟩ with
        now := 3072 }).stations[(0 : StationId)].drive = .held .breakLine
    ∧ (after (.breakLineChange 0 false) ((withStation idle .live .running).setBreak 0
        ⟨true, false, some 0⟩)).breaks[(0 : StationId)] = ⟨false, false, none⟩ := by decide

/-- The same of the stop line: an assertion that has stood for 256 µs holds the drive. -/
theorem test_stop_return :
    (after (.stopLineChange true) { withStation idle .live .running with
        stop := ⟨false, true, some 0⟩, now := 12287 }).stop = ⟨true, true, none⟩
    ∧ (after (.stopLineChange true) { withStation idle .live .running with
        stop := ⟨false, true, some 0⟩, now := 12288 }).stop = ⟨true, false, some 12288⟩
    ∧ (after (.stopLineChange true) { withStation idle .live .running with
        stop := ⟨false, true, some 0⟩, now := 12288 }).stations[(0 : StationId)].drive = .held .stopLine
    ∧ (after (.stopLineChange false) { idle with
        stop := ⟨true, false, some 0⟩, now := 12288 }).stop = ⟨false, true, some 12288⟩ := by decide

theorem test_stop_line :
    (after (.stopLineChange false) idle).stop = ⟨false, true, some 0⟩
    ∧ (after .stopAssertion { withStation idle .live .running with stop := ⟨false, true, some 0⟩
      }).stations[(0 : StationId)].drive = .held .stopLine
    ∧ (after .stopAssertion { withStation idle .live .running with stop := ⟨false, true, some 0⟩ }).now =
      12288
    ∧ (after .stopNegation { idle with stop := ⟨true, false, some 0⟩ }).stop = ⟨true, true, none⟩ := by
  decide

/-! ### Invariants -/

/-- A state with a member, a queued frame and a gate entry meets the invariants. -/
def lively : State :=
  { sending .waiting (.acc 5) with gate := ⟨[⟨5#16, 0#6⟩], 1#6⟩ }

theorem test_invariants_met : GateHoldsMembers lively ∧ StoppedExactlyOff lively
    ∧ QueueHasRoom lively ∧ GateListFits lively ∧ HoldCarriesHolder lively := by
  refine ⟨?_, ?_, ?_, ⟨by decide, fun h => absurd h (by decide)⟩, fun h hh => by cases hh⟩
  · unfold GateHoldsMembers
    decide
  · unfold StoppedExactlyOff
    decide
  · intro k
    have h : ∀ k : StationId, lively.links[k].queue.length ≤ 2 ∧ lively.links[k].rx = none := by decide
    exact ⟨(h k).1, fun f hf => by rw [(h k).2] at hf; cases hf⟩

theorem test_rests_outside_running : RestsOutsideRunning lively := by
  intro k hk
  have h : ∀ k : StationId, k ≠ 0 → lively.stations[k].drive = .stopped ∧ lively.links[k] = Link.reset := by
    decide
  have h0 : lively.stations[(0 : StationId)].drive = .running := by decide
  by_cases e : k = 0
  · subst e
    exact absurd h0 hk
  · have hs : ∀ k : StationId, k ≠ 0 → lively.stations[k].send = lively.stations[k].done := by decide
    rw [(h k e).2]
    exact ⟨rfl, rfl, rfl, rfl, hs k e⟩

/-- A job with a station that sends and one in CATCHUP behind it, at a gate entry. -/
def orderly : State :=
  { (((journaling .keep).setStation 0 { Station.reset with
        feed := .live, drive := .running, ring := some 4#5, capacity := 16
        post := 1208#16, send := 1207#16, done := 1206#16 }).setStation 1 { Station.reset with
        feed := .catchup, drive := .held .attach, ring := some 5#5, capacity := 16
        post := 1205#16, send := 1205#16, done := 1205#16 }).setLink 0 { Link.reset with
        outstanding := some ⟨1207#16, .waiting⟩, staging := .copy 1207#16 masterMark } with
    gate := ⟨[⟨1207#16, 0#6⟩], 3#6⟩ }

theorem orderly_link (k : StationId) (h : k ≠ 0) : orderly.links[k] = Link.reset := by
  revert k
  decide

theorem test_off_holds_nothing : OffHoldsNothing orderly ∧ SizesFit orderly
    ∧ GateHoldsMembers orderly ∧ PointersInOrder orderly ∧ orderly.stations[(5 : StationId)].feed = .off := by
  refine ⟨fun k hk => ?_, by unfold SizesFit; decide, by unfold GateHoldsMembers; decide,
    by unfold PointersInOrder; decide, by decide⟩
  have h : ∀ k : StationId, orderly.stations[k].feed = .off →
      orderly.stations[k].post = orderly.stations[k].done
        ∧ orderly.stations[k].send = orderly.stations[k].done ∧ k ≠ 0 := by decide
  obtain ⟨h1, h2, h3⟩ := h k hk
  rw [orderly_link k h3]
  exact ⟨h1, h2, rfl, fun d hd => (nomatch hd), fun t ht => (nomatch ht)⟩

theorem test_sequences_in_order : SequencesInOrder orderly := by
  obtain ⟨h1, h2, h3, h4, -⟩ := test_off_holds_nothing
  have live : ∀ k : StationId, orderly.stations[k].feed = .live → orderly.stations[k].post = 1208#16 := by
    decide
  have back : ∀ k : StationId, orderly.stations[k].feed = .detached ∨ orderly.stations[k].feed = .catchup →
      seqDist orderly.stations[k].post 1208#16 ≤ 64 := by decide
  have idle : ∀ k : StationId, orderly.stations[k].progress = .idle := by decide
  refine ⟨h3, h1, h2, h4, ⟨fun k _ => by decide, fun k d q h => ?_, by decide⟩,
    ⟨rfl, fun l h => (nomatch h), fun k => ⟨fun h _ => live k h, fun l _ h => (nomatch h), fun h =>
      ⟨back k h, fun h => (nomatch h)⟩⟩⟩,
    fun t h => (nomatch h), fun k => ?_, ⟨by decide, by decide, by decide, fun e h => ?_⟩⟩
  · rw [idle k] at h
    cases h
  · by_cases e : k = 0
    · subst e
      refine ⟨fun q m h => ?_, fun q h => (nomatch h), fun _ => rfl, fun d h => (nomatch h), fun o h => ?_,
        fun t q h => (nomatch h)⟩
      · cases h
        rfl
      · cases h
        exact ⟨rfl, by decide, masterMark, rfl⟩
    · rw [orderly_link k e]
      exact ⟨fun q m h => (nomatch h), fun q h => (nomatch h), fun h => absurd rfl h, fun d h => (nomatch h),
        fun o h => (nomatch h), fun t q h => (nomatch h)⟩
  · cases h
    exact ⟨0, by decide, by decide⟩

theorem test_pending_bits_named : PendingBitsNamed lively := by
  refine ⟨by unfold named; decide, fun r => ?_, fun w hw => by cases hw⟩
  cases r with
  | summary => unfold named; decide
  | errorLog => unfold named; decide
  | job => unfold named; decide
  | station k => revert k; unfold named; decide

/-- Nothing is spelled by a word: no row of the table gives bits. -/
theorem test_no_word_spells : decodeTableWord 32 0 = none
    ∧ State.withFetchWord idle 32 0 = idle := ⟨rfl, rfl⟩

end Sys2Proof.Tests
end

section
/-! The check word, the scaling and the copy transform of chapter 1: what a copy holds, kind by kind,
and when a LINE or arc record has one (R4 to R18). -/

namespace Sys2Proof.Machine

/-! ### The check word (R4) -/

theorem checkCorrect_iff (r : Record) : checkCorrect r = true ↔
    r[7] = ~~~(r[0] + r[1] + r[2] + r[3] + r[4] + r[5] + r[6]) := beq_iff_eq

/-- A word is the complement of a sum exactly when the two add up to all ones. -/
theorem eq_not_iff_add_eq_allOnes (x y : Word) : y = ~~~x ↔ x + y = 0xFFFFFFFF#32 := by
  have h : x + ~~~x = 0xFFFFFFFF#32 := BitVec.add_not_self x
  rw [← h, BitVec.add_right_inj]

theorem transform_checkCorrect {b : Block} {m copy : Record} (h : transform b m = some copy) :
    checkCorrect copy = true := by
  obtain ⟨c, cl, fc, x, y, z, ai, j, feed, rfl⟩ := transform_built h
  exact buildCopy_checkCorrect ..

/-- Settles O5: the check word by its definition and `x + ~~~x`, the copies by their shape. -/
theorem checkWordComplementsSum : Obligations.CheckWordComplementsSum :=
  ⟨checkCorrect_iff,
    fun r => (checkCorrect_iff r).trans (eq_not_iff_add_eq_allOnes _ _),
    fun _ _ _ => transform_checkCorrect⟩

/-! ### Scaling (R8) -/

/-- The magnitude of s(v), which does not see the sign of v (R8). -/
def scaledMagnitude (p q n : Nat) : Nat := (2 * n * p + q) / (2 * q)

theorem scaled_of_nonneg (p q : Nat) {v : Int} (h : 0 ≤ v) :
    scaled p q v = scaledMagnitude p q v.natAbs := by
  unfold scaled scaledMagnitude
  rw [if_neg (not_lt.mpr h)]

theorem scaled_of_neg (p q : Nat) {v : Int} (h : v < 0) :
    scaled p q v = -(scaledMagnitude p q v.natAbs : Int) := by
  unfold scaled scaledMagnitude
  rw [if_pos h]

theorem scaledMagnitude_zero (p : Nat) {q : Nat} (hq : 0 < q) : scaledMagnitude p q 0 = 0 := by
  unfold scaledMagnitude
  exact Nat.div_eq_of_lt (by omega)

theorem scaled_natAbs (p q : Nat) (v : Int) :
    (scaled p q v).natAbs = scaledMagnitude p q v.natAbs := by
  rcases lt_or_ge v 0 with h | h
  · rw [scaled_of_neg p q h, Int.natAbs_neg, Int.natAbs_natCast]
  · rw [scaled_of_nonneg p q h, Int.natAbs_natCast]

theorem scaled_nonneg (p q : Nat) {v : Int} (h : 0 ≤ v) : 0 ≤ scaled p q v := by
  rw [scaled_of_nonneg p q h]
  exact Int.natCast_nonneg _

theorem scaled_nonpos (p q : Nat) {v : Int} (h : v < 0) : scaled p q v ≤ 0 := by
  rw [scaled_of_neg p q h]
  omega

theorem scaled_neg (p : Nat) {q : Nat} (hq : 0 < q) (v : Int) :
    scaled p q (-v) = -scaled p q v := by
  rcases lt_trichotomy v 0 with h | rfl | h
  · rw [scaled_of_nonneg p q (by omega), scaled_of_neg p q h, Int.natAbs_neg, neg_neg]
  · rw [neg_zero, scaled_of_nonneg p q le_rfl, Int.natAbs_zero, scaledMagnitude_zero p hq]
    rfl
  · rw [scaled_of_neg p q (by omega), scaled_of_nonneg p q h.le, Int.natAbs_neg]

/-- The magnitude lies within half of n·p/q. -/
theorem scaledMagnitude_near (p n : Nat) {q : Nat} (hq : 0 < q) :
    2 * ((scaledMagnitude p q n : Int) * q - n * p).natAbs ≤ q := by
  have hdiv := Nat.div_add_mod (2 * n * p + q) (2 * q)
  have hmod := Nat.mod_lt (2 * n * p + q) (show 0 < 2 * q by omega)
  rw [Nat.mul_assoc 2 q, Nat.mul_assoc 2 n, Nat.mul_comm q] at hdiv
  rw [Nat.mul_assoc 2 n] at hmod
  have hm : scaledMagnitude p q n = (2 * (n * p) + q) / (2 * q) := by
    rw [scaledMagnitude, Nat.mul_assoc 2 n]
  rw [hm, ← Nat.cast_mul, ← Nat.cast_mul]
  omega

theorem scaled_near (p : Nat) {q : Nat} (hq : 0 < q) (v : Int) :
    2 * (scaled p q v * q - v * p).natAbs ≤ q := by
  have hnear := scaledMagnitude_near p v.natAbs hq
  rcases lt_or_ge v 0 with h | h
  · have hv : v = -(v.natAbs : Int) := by omega
    have hsub : scaled p q v * q - v * p =
        -((scaledMagnitude p q v.natAbs : Int) * q - v.natAbs * p) := by
      rw [scaled_of_neg p q h]
      nth_rewrite 2 [hv]
      ring
    rwa [hsub, Int.natAbs_neg]
  · rw [Int.natAbs_of_nonneg h] at hnear
    rwa [scaled_of_nonneg p q h]

/-- Settles O6: by the sign of v, from the one magnitude that both signs share. -/
theorem scalingRoundsToNearest : Obligations.ScalingRoundsToNearest :=
  fun p q v hq => ⟨scaled_natAbs p q v, scaled_nonneg p q, scaled_nonpos p q, scaled_neg p hq v,
    scaled_near p hq v⟩

/-! ### The scale pair (R9) -/

theorem scaleValid_iff (p q : Nat) :
    scaleValid p q = true ↔ 1 ≤ p ∧ p ≤ 4096 ∧ 1 ≤ q ∧ q ≤ 4096 := decide_eq_true_iff

theorem motionCopy_invalidScale {b : Block} (k : Kind) (m : Record)
    (h : ¬scaleValid (cbScaleP b) (cbScaleQ b) = true) : motionCopy b k m = none := if_neg h

/-- Settles O7: the scale test comes first in a motion copy and is not made for the other kinds. -/
theorem invalidScalePairFaultsMotion : Obligations.InvalidScalePairFaultsMotion := by
  refine ⟨fun b m k hk hs => ⟨fun hm => ?_, fun hm => transform_plain hk hm⟩, rfl, rfl⟩
  rw [transform_motion hk hm]
  exact motionCopy_invalidScale k m fun hv => hs ((scaleValid_iff _ _).mp hv)

/-! ### The copy's kind (R12) -/

theorem transform_kind {b : Block} {m copy : Record} {k : Kind} (hk : recKind m = some k)
    (h : transform b m = some copy) :
    recKind copy = some (if isMotion k then mirroredKind k (cbMirrorX b) (cbMirrorY b) else k) := by
  cases hm : isMotion k with
  | true =>
    rw [transform_motion hk hm] at h
    obtain ⟨mo, -, -, -, rfl⟩ := motionCopy_eq_some h
    rw [buildCopy_kind, if_pos rfl]
  | false =>
    rw [transform_plain hk hm] at h
    rw [← Option.some.inj h, plainCopy, buildCopy_kind, if_neg (by decide)]

theorem mirroredKind_arcCw (mx my : Bool) :
    mirroredKind .arcCw mx my = if mx ≠ my then .arcCcw else .arcCw := by
  cases mx <;> cases my <;> rfl

theorem mirroredKind_arcCcw (mx my : Bool) :
    mirroredKind .arcCcw mx my = if mx ≠ my then .arcCw else .arcCcw := by
  cases mx <;> cases my <;> rfl

theorem mirroredKind_other {k : Kind} (h1 : k ≠ .arcCw) (h2 : k ≠ .arcCcw) (mx my : Bool) :
    mirroredKind k mx my = k := by
  unfold mirroredKind
  split
  · cases k with
    | arcCw => exact absurd rfl h1
    | arcCcw => exact absurd rfl h2
    | line | dwell | tool | mark | endJob => rfl
  · rfl

/-- Settles O8: the kind of every copy, read off `mirroredKind` for the motion kinds. -/
theorem mirroringExchangesArcKinds : Obligations.MirroringExchangesArcKinds := by
  intro b m copy k hk h
  have hc := transform_kind hk h
  refine ⟨?_, ?_, fun h1 h2 => ?_⟩
  · rintro rfl
    rw [hc, ← mirroredKind_arcCw]
    rfl
  · rintro rfl
    rw [hc, ← mirroredKind_arcCcw]
    rfl
  · rw [hc, mirroredKind_other h1 h2, ite_self]

/-! ### A record of a kind without motion (R17) -/

theorem recFeed_lt (r : Record) : recFeed r < 65536 := BitVec.isLt _

/-- Settles O10: the copy of such a record is `plainCopy`, and its fields read back. -/
theorem nonMotionRecordIsCopied : Obligations.NonMotionRecordIsCopied := by
  intro b m k hk hm
  exact ⟨plainCopy k m, transform_plain hk hm, rfl, rfl, rfl, rfl, rfl, buildCopy_clamped ..,
    buildCopy_feedClamp .., buildCopy_feed _ _ _ _ _ _ _ _ _ _ (recFeed_lt m), buildCopy_speed ..,
    buildCopy_tool .., buildCopy_sync .., buildCopy_seq ..⟩

/-! ### When a LINE or arc record has a copy (R9, R15, R16) -/

theorem inRange32_iff (v : Int) : inRange32 v = true ↔ -2147483648 ≤ v ∧ v ≤ 2147483647 :=
  decide_eq_true_iff

theorem withinTravel_iff (b : Block) (x y z : Int) : withinTravel b x y z = true ↔
    cbXmin b ≤ x ∧ x ≤ cbXmax b ∧ cbYmin b ≤ y ∧ y ≤ cbYmax b ∧ z ≤ cbZmax b := decide_eq_true_iff

/-- The copy's z: the exact value, raised to zfloor where it lies below (R11). -/
def raisedZ (b : Block) (m : Record) : Int :=
  if (motionValues b m).z < cbZfloor b then cbZfloor b else (motionValues b m).z

theorem transform_motion_isSome {b : Block} {m : Record} {k : Kind} (hk : recKind m = some k)
    (hm : isMotion k = true) : (transform b m).isSome = true ↔
      scaleValid (cbScaleP b) (cbScaleQ b) = true
      ∧ (rangeTested b m).all inRange32 = true
      ∧ (k ≠ .line → (arcTested b m).all inRange32 = true)
      ∧ withinTravel b (motionValues b m).x (motionValues b m).y (raisedZ b m) = true := by
  have harc : (!(k != .line) || (arcTested b m).all inRange32) = true ↔
      (k ≠ .line → (arcTested b m).all inRange32 = true) := by
    rw [Bool.or_eq_true, Bool.not_eq_true', bne_eq_false_iff_eq, or_iff_not_imp_left]
  rw [transform_motion hk hm, motionCopy_isSome, Bool.and_eq_true, Bool.and_eq_true, Bool.and_eq_true,
    harc, and_assoc, and_assoc]
  rfl

/-- The values of a motion record's copy: those of R10 and R11, with an arc's centre in range. -/
theorem transform_motion_copy {b : Block} {m copy : Record} {k : Kind} (hk : recKind m = some k)
    (hm : isMotion k = true) (h : transform b m = some copy) :
    let mo := motionValues b m
    (inRange32 mo.x = true ∧ inRange32 mo.y = true ∧ inRange32 mo.z = true
      ∧ (k ≠ .line → inRange32 mo.i = true ∧ inRange32 mo.j = true))
    ∧ copy = buildCopy m (kindCode (mirroredKind k (cbMirrorX b) (cbMirrorY b)))
        (decide (mo.z < cbZfloor b)) (copyFeed (cbScaleP b) (cbScaleQ b) (recFeed m)).2
        (BitVec.ofInt 32 mo.x) (BitVec.ofInt 32 mo.y) (BitVec.ofInt 32 (raisedZ b m))
        (BitVec.ofInt 32 (if k = .line then copyAngle b m[4].toNat else mo.i))
        (BitVec.ofInt 32 (if k = .line then 0 else mo.j))
        (copyFeed (cbScaleP b) (cbScaleQ b) (recFeed m)).1 := by
  rw [transform_motion hk hm] at h
  obtain ⟨mo, -, hmo, -, hcopy⟩ := motionCopy_eq_some h
  obtain ⟨hx, hy, hz, harc⟩ := motionOf_inRange hmo
  obtain rfl := (motionOf_eq_some hmo).1
  exact ⟨⟨hx, hy, hz, fun hl => harc (bne_iff_ne.mpr hl)⟩, hcopy⟩

/-! ### The word of a or i (R13) -/

/-- The word of oa decides nothing of a motion record's travel fault. -/
theorem transform_setOa_isSome {b : Block} {m : Record} {k : Kind} (hk : recKind m = some k)
    (hm : isMotion k = true) (w : Word) :
    (transform (b.set 5 w) m).isSome = (transform b m).isSome := by
  have hblock : ∀ i (_ : i < 16), i ≠ 5 → (b.set 5 w)[i] = b[i] := fun i hi h =>
    Vector.getElem_set_ne (by omega) hi (Ne.symm h)
  rw [Bool.eq_iff_iff, transform_motion_isSome hk hm, transform_motion_isSome hk hm]
  simp [rangeTested, arcTested, motionValues, raisedZ, withinTravel, cbScaleP, cbScaleQ, cbMirrorX,
    cbMirrorY, cbOx, cbOy, cbOz, cbTlo, cbZfloor, cbZmax, cbXmin, cbXmax, cbYmin, cbYmax, hblock]

/-- The word of a decides nothing of a LINE record's travel fault. -/
theorem transform_setA_isSome {b : Block} {m : Record} (hk : recKind m = some .line) (w : Word) :
    (transform b (m.set 4 w)).isSome = (transform b m).isSome := by
  have hrec : ∀ i (_ : i < 8), i ≠ 4 → (m.set 4 w)[i] = m[i] := fun i hi h =>
    Vector.getElem_set_ne (by omega) hi (Ne.symm h)
  have hk' : recKind (m.set 4 w) = some .line := by rwa [recKind, hrec 0 (by omega) (by omega)]
  have hx : (motionValues b (m.set 4 w)).x = (motionValues b m).x := by simp [motionValues, hrec]
  have hy : (motionValues b (m.set 4 w)).y = (motionValues b m).y := by simp [motionValues, hrec]
  have hz : (motionValues b (m.set 4 w)).z = (motionValues b m).z := by simp [motionValues, hrec]
  have hrange : rangeTested b (m.set 4 w) = rangeTested b m := by
    simp [rangeTested, hrec, hx, hy, hz]
  rw [Bool.eq_iff_iff, transform_motion_isSome hk' rfl, transform_motion_isSome hk rfl, hrange, hx, hy,
    show raisedZ b (m.set 4 w) = raisedZ b m by rw [raisedZ, hz, raisedZ]]
  simp

theorem copyAngle_range (b : Block) (a : Nat) : 0 ≤ copyAngle b a ∧ copyAngle b a < 360000 :=
  ⟨Int.emod_nonneg _ (by decide), Int.emod_lt_of_pos _ (by decide)⟩

/-- An angle survives as a word. -/
theorem toNat_ofInt_copyAngle (b : Block) (a : Nat) :
    ((BitVec.ofInt 32 (copyAngle b a)).toNat : Int) = copyAngle b a := by
  obtain ⟨h0, h1⟩ := copyAngle_range b a
  rw [BitVec.toNat_ofInt]
  omega

theorem transform_line_angle {b : Block} {m copy : Record} (hk : recKind m = some .line)
    (h : transform b m = some copy) : (copy[4].toNat : Int) = copyAngle b m[4].toNat := by
  obtain ⟨-, rfl⟩ := transform_motion_copy hk rfl h
  rw [buildCopy_ai, if_pos rfl, toNat_ofInt_copyAngle]

/-- An arc's centre, scaled and mirrored like the endpoint (R10). -/
theorem transform_arc_centre {b : Block} {m copy : Record} {k : Kind} (hk : recKind m = some k)
    (hm : isMotion k = true) (hl : k ≠ .line) (h : transform b m = some copy) :
    copy[4].toInt = (motionValues b m).i ∧ copy[5].toInt = (motionValues b m).j := by
  obtain ⟨⟨-, -, -, harc⟩, rfl⟩ := transform_motion_copy hk hm h
  obtain ⟨hi, hj⟩ := harc hl
  rw [buildCopy_ai, buildCopy_j, if_neg hl, if_neg hl, toInt_ofInt_of_inRange32 hi,
    toInt_ofInt_of_inRange32 hj]
  exact ⟨rfl, rfl⟩

/-- Settles O9: the travel fault reads neither oa nor a, and the word follows the kind. -/
theorem turntableAngleReduced : Obligations.TurntableAngleReduced := by
  refine ⟨fun b m w hk => ⟨transform_setOa_isSome hk rfl w, transform_setA_isSome hk w⟩,
    fun b m copy k hk h => ⟨?_, ?_, fun hm => ?_⟩⟩
  · rintro rfl
    have hangle := transform_line_angle hk h
    obtain ⟨h0, h1⟩ := copyAngle_range b m[4].toNat
    exact ⟨hangle, by omega⟩
  · rintro (rfl | rfl)
    · exact (transform_arc_centre hk rfl (by decide) h).1
    · exact (transform_arc_centre hk rfl (by decide) h).1
  · rw [transform_plain hk hm] at h
    rw [← Option.some.inj h]
    rfl

/-! ### A motion copy's fields (R10, R11, R14) -/

/-- The feed is s(feed) brought into 1..65535, and the flag says that it was brought in (R14). -/
theorem copyFeed_spec (p q n : Nat) :
    ((copyFeed p q n).1 : Int) = max 1 (min 65535 (scaled p q n))
    ∧ ((copyFeed p q n).2 = true ↔ ¬(1 ≤ scaled p q n ∧ scaled p q n ≤ 65535)) := by
  have h0 : 0 ≤ scaled p q n := scaled_nonneg p q (Int.natCast_nonneg n)
  unfold copyFeed
  simp only []
  split
  · exact ⟨by omega, iff_of_true rfl (by omega)⟩
  · split
    · exact ⟨by omega, iff_of_true rfl (by omega)⟩
    · exact ⟨by omega, iff_of_false Bool.false_ne_true (by omega)⟩

theorem copyFeed_lt (p q n : Nat) : (copyFeed p q n).1 < 65536 := by
  have h := (copyFeed_spec p q n).1
  omega

/-- A copy's z is a 32-bit value: the exact one in range, or zfloor. -/
theorem raisedZ_inRange {b : Block} {m : Record} (h : inRange32 (motionValues b m).z = true) :
    inRange32 (raisedZ b m) = true := by
  unfold raisedZ
  split
  · rw [inRange32_iff]
    exact ⟨BitVec.le_toInt b[6], Int.le_of_lt_add_one BitVec.toInt_lt⟩
  · exact h

theorem transform_motion_endpoint {b : Block} {m copy : Record} {k : Kind} (hk : recKind m = some k)
    (hm : isMotion k = true) (h : transform b m = some copy) :
    copy[1].toInt = (motionValues b m).x ∧ copy[2].toInt = (motionValues b m).y
      ∧ copy[3].toInt = raisedZ b m
      ∧ (recClamped copy = true ↔ (motionValues b m).z < cbZfloor b) := by
  obtain ⟨⟨hx, hy, hz, -⟩, rfl⟩ := transform_motion_copy hk hm h
  rw [buildCopy_x, buildCopy_y, buildCopy_z, buildCopy_clamped, decide_eq_true_iff,
    toInt_ofInt_of_inRange32 hx, toInt_ofInt_of_inRange32 hy,
    toInt_ofInt_of_inRange32 (raisedZ_inRange hz)]
  exact ⟨rfl, rfl, rfl, Iff.rfl⟩

theorem transform_line_unused {b : Block} {m copy : Record} (hk : recKind m = some .line)
    (h : transform b m = some copy) : copy[5] = 0#32 := by
  obtain ⟨-, rfl⟩ := transform_motion_copy hk rfl h
  rfl

theorem transform_motion_feed {b : Block} {m copy : Record} {k : Kind} (hk : recKind m = some k)
    (hm : isMotion k = true) (h : transform b m = some copy) :
    let feed := scaled (cbScaleP b) (cbScaleQ b) (recFeed m)
    (recFeed copy : Int) = max 1 (min 65535 feed)
      ∧ (recFeedClamp copy = true ↔ ¬(1 ≤ feed ∧ feed ≤ 65535)) := by
  obtain ⟨-, rfl⟩ := transform_motion_copy hk hm h
  rw [buildCopy_feed _ _ _ _ _ _ _ _ _ _ (copyFeed_lt ..), buildCopy_feedClamp]
  exact copyFeed_spec ..

/-- The fields that every copy takes from its master (R18, R190). -/
theorem transform_masterFields {b : Block} {m copy : Record} (h : transform b m = some copy) :
    recSeq copy = recSeq m ∧ recTool copy = recTool m ∧ recSync copy = recSync m
      ∧ recSpeed copy = recSpeed m ∧ copy[0].extractLsb' 27 5 = 0#5 := by
  obtain ⟨c, cl, fc, x, y, z, ai, j, feed, rfl⟩ := transform_built h
  exact ⟨buildCopy_seq .., buildCopy_tool .., buildCopy_sync .., buildCopy_speed .., buildCopy_unused ..⟩

/-- A record of a kind that is not valid: a travel fault, or the copy of a free value (log 34). -/
theorem transform_unknown_cases {b : Block} {m : Record} (hk : recKind m = none) :
    transform b m = none ∨ ∃ f, transform b m = some (unknownCopy m f) := by
  rw [transform_unknown hk]
  cases Config.copyOfUnknownKind b m with
  | none => exact .inl rfl
  | some f => exact .inr ⟨f, rfl⟩

/-- The kind field's code, by its place in Table 1-1. -/
theorem recKind_eq (r : Record) : recKind r =
    [Kind.line, .arcCw, .arcCcw, .dwell, .tool, .mark, .endJob][fieldOf r[0] 16 4]? := by
  unfold recKind
  match fieldOf r[0] 16 4 with
  | 0 | 1 | 2 | 3 | 4 | 5 | 6 => rfl
  | _ + 7 => rfl

/-- When a motion record has a copy, every test written out (R9, R15, R16). -/
theorem transform_motion_exists {b : Block} {m : Record} {k : Kind} (hk : recKind m = some k)
    (hm : isMotion k = true) : (∃ copy, transform b m = some copy) ↔
      scaleValid (cbScaleP b) (cbScaleQ b) = true
      ∧ (rangeTested b m).all inRange32 = true
      ∧ (k ≠ .line → (arcTested b m).all inRange32 = true)
      ∧ withinTravel b (motionValues b m).x (motionValues b m).y (raisedZ b m) = true :=
  Option.isSome_iff_exists.symm.trans (transform_motion_isSome hk hm)

theorem rangeTested_iff (b : Block) (m : Record) :
    (rangeTested b m).all inRange32 = true ↔
      inRange32 (scaled (cbScaleP b) (cbScaleQ b) m[1].toInt) = true
      ∧ inRange32 (scaled (cbScaleP b) (cbScaleQ b) m[2].toInt) = true
      ∧ inRange32 (signOf (cbMirrorX b) * scaled (cbScaleP b) (cbScaleQ b) m[1].toInt) = true
      ∧ inRange32 (signOf (cbMirrorY b) * scaled (cbScaleP b) (cbScaleQ b) m[2].toInt) = true
      ∧ inRange32 (motionValues b m).x = true ∧ inRange32 (motionValues b m).y = true
      ∧ inRange32 (scaled (cbScaleP b) (cbScaleQ b) m[3].toInt) = true
      ∧ inRange32 (cbOz b + scaled (cbScaleP b) (cbScaleQ b) m[3].toInt) = true
      ∧ inRange32 (motionValues b m).z = true := by
  simp only [rangeTested, List.all_cons, List.all_nil, Bool.and_true, Bool.and_eq_true]
  tauto

theorem arcTested_iff (b : Block) (m : Record) :
    (arcTested b m).all inRange32 = true ↔
      inRange32 (scaled (cbScaleP b) (cbScaleQ b) m[4].toInt) = true
      ∧ inRange32 (scaled (cbScaleP b) (cbScaleQ b) m[5].toInt) = true
      ∧ inRange32 (motionValues b m).i = true ∧ inRange32 (motionValues b m).j = true := by
  simp only [arcTested, List.all_cons, List.all_nil, Bool.and_true, Bool.and_eq_true]

/-- Settles O11: the copy's fields one lemma each, and the tests of R9, R15 and R16 written out. -/
theorem motionCopyFieldsAndPlace : Obligations.MotionCopyFieldsAndPlace := by
  refine ⟨fun b m copy => transform_masterFields, fun b m => transform_unknown_cases,
    fun m f => ⟨buildCopy_kindCode .., rfl, rfl⟩, fun b m k hk hm => ⟨?_, fun copy h => ?_⟩,
    fun r => ⟨rfl, recKind_eq r, rfl, rfl, rfl, rfl, rfl, rfl⟩⟩
  · rw [transform_motion_exists hk hm, scaleValid_iff, rangeTested_iff, arcTested_iff, withinTravel_iff]
    simp only [inRange32_iff, and_assoc]
    rfl
  · obtain ⟨hx, hy, hz, hclamp⟩ := transform_motion_endpoint hk hm h
    obtain ⟨hfeed, hflag⟩ := transform_motion_feed hk hm h
    refine ⟨hx, hy, hz, hclamp, fun hl => transform_arc_centre hk hm hl h, ?_, hfeed, hflag⟩
    rintro rfl
    exact transform_line_unused hk h

end Sys2Proof.Machine
end

section
/-! The sync gate of chapter 5, operation by operation, and the order of sequence numbers (R3, R88 to
R95). -/

namespace Sys2Proof.Machine

/-! ### Sets of stations -/

theorem inSet_insert (j k : StationId) (m : StationSet) :
    inSet j (m ||| stationBit k) = (inSet j m || decide (j = k)) := by
  unfold inSet
  rw [BitVec.getLsbD_or, stationBit_get]

theorem inSet_remove (j k : StationId) (m : StationSet) :
    inSet j (m &&& ~~~stationBit k) = (inSet j m && !decide (j = k)) := by
  unfold inSet
  rw [BitVec.getLsbD_and, BitVec.getLsbD_not, stationBit_get, decide_eq_true j.isLt, Bool.true_and]

theorem stationSet_eq_zero_iff (m : StationSet) : m = 0#6 ↔ ∀ k : StationId, inSet k m = false := by
  revert m; decide

/-! ### The release test (R94) -/

theorem entryComplete_iff (m : StationSet) (e : GateEntry) : entryComplete m e = true ↔
    ∀ k : StationId, inSet k m = true → inSet k e.doneSet = true := by
  unfold entryComplete
  rw [beq_iff_eq, stationSet_eq_zero_iff]
  refine forall_congr' fun k => ?_
  unfold inSet
  rw [BitVec.getLsbD_and, BitVec.getLsbD_not, decide_eq_true k.isLt, Bool.true_and,
    Bool.and_eq_false_iff, Bool.not_eq_false', or_iff_not_imp_left, Bool.not_eq_false]

/-- The release test drops complete entries from the front and stops at the first that is not. -/
theorem releaseEntries_spec (m : StationSet) : ∀ l : List GateEntry, ∃ gone,
    l = gone ++ releaseEntries m l ∧ (∀ e ∈ gone, entryComplete m e = true)
      ∧ ∀ e rest, releaseEntries m l = e :: rest → entryComplete m e = false
  | [] => ⟨[], rfl, fun e he => (nomatch he), fun e rest h => (nomatch h)⟩
  | d :: l => by
    cases hd : entryComplete m d with
    | true =>
      have hr : releaseEntries m (d :: l) = releaseEntries m l := if_pos hd
      obtain ⟨gone, hl, hgone, hfront⟩ := releaseEntries_spec m l
      rw [hr]
      exact ⟨d :: gone, congrArg (d :: ·) hl, List.forall_mem_cons.mpr ⟨hd, hgone⟩, hfront⟩
    | false =>
      have hr : releaseEntries m (d :: l) = d :: l := if_neg (by rw [hd]; exact Bool.false_ne_true)
      rw [hr]
      refine ⟨[], rfl, fun e he => (nomatch he), fun e rest h => ?_⟩
      rwa [← (List.cons.inj h).1]

/-- An entry is not complete when some member is missing from its done-set. -/
theorem entryComplete_eq_false_iff (m : StationSet) (e : GateEntry) : entryComplete m e = false ↔
    ∃ k : StationId, inSet k m = true ∧ inSet k e.doneSet = false := by
  rw [← Bool.not_eq_true, entryComplete_iff]
  simp

/-! ### Joining, leaving, completing, inserting (R90 to R93) -/

@[simp] theorem join_members (g : Gate) (k : StationId) (q : Seq) :
    (g.join k q).members = g.members ||| stationBit k := rfl

@[simp] theorem leave_members (g : Gate) (k : StationId) :
    (g.leave k).members = g.members &&& ~~~stationBit k := rfl

/-- A completion counts when the station is a member and the list has an entry for it. -/
theorem completed_guard (g : Gate) (k : StationId) (q : Seq) :
    (inSet k g.members && g.entries.any fun e => e.seq == q) = true ↔
      inSet k g.members = true ∧ ∃ e ∈ g.entries, e.seq = q := by
  rw [Bool.and_eq_true, List.any_eq_true]
  simp only [beq_iff_eq]

theorem completed_of_entry {g : Gate} {k : StationId} {q : Seq} (hk : inSet k g.members = true)
    (he : ∃ e ∈ g.entries, e.seq = q) : g.completed k q =
      Gate.release { g with entries := g.entries.map (completeEntry k q) } :=
  if_pos ((completed_guard g k q).mpr ⟨hk, he⟩)

theorem completed_otherwise {g : Gate} {k : StationId} {q : Seq}
    (h : ¬(inSet k g.members = true ∧ ∃ e ∈ g.entries, e.seq = q)) : g.completed k q = g :=
  if_neg fun hc => h ((completed_guard g k q).mp hc)

/-! ### The member set (R89) -/

/-- Once told of a station, the gate has it as a member exactly when it is one. -/
theorem told_members_get (g : Gate) (k j : StationId) (st : Station) :
    inSet j (g.told k st).members = if j = k then isMember st else inSet j g.members := by
  unfold Gate.told
  by_cases hj : j = k
  · subst hj
    cases hm : isMember st <;> cases hs : inSet j g.members <;>
      simp [inSet_insert, inSet_remove, hs]
  · cases isMember st <;> cases inSet k g.members <;> simp [inSet_insert, inSet_remove, hj]

/-- A station that changes, with the gate told, keeps the member set right. -/
theorem told_holdsMembers {s t : State} {k : StationId} {st : Station} (h : GateHoldsMembers s)
    (hs : t.stations = s.stations.set k st) (hg : t.gate = s.gate.told k st) : GateHoldsMembers t := by
  intro j
  rw [hg, hs, told_members_get]
  by_cases hj : j = k
  · subst hj
    rw [if_pos rfl, get_set_self]
  · rw [if_neg hj, get_set_ne _ _ _ _ hj, h j]

/-! ### The sending limit (R95) and the order of sequence numbers (R3) -/

theorem allows_iff (g : Gate) (q : Seq) :
    g.allows q = true ↔ ∀ e, g.entries.head? = some e → seqBefore e.seq q = false := by
  unfold Gate.allows
  cases g.entries with
  | nil => simp
  | cons e l => simp

theorem seqBefore_iff (a b : Seq) :
    seqBefore a b = true ↔ 1 ≤ seqDist a b ∧ seqDist a b ≤ 32767 := decide_eq_true_iff

/-- Settles O55: each operation by its definition, and the release test by induction on the list. -/
theorem gateOperations : Obligations.GateOperations := by
  refine ⟨fun a b => ⟨seqDist_toNat a b, seqBefore_iff a b⟩, fun m l => ?_, fun j k m => ⟨?_, ?_⟩,
    fun g k q => ⟨⟨rfl, rfl⟩, ⟨rfl, rfl⟩, fun hk he => ?_, completed_otherwise, fun stations => ?_,
      allows_iff g q⟩⟩
  · obtain ⟨gone, hl, hgone, hfront⟩ := releaseEntries_spec m l
    exact ⟨gone, hl, fun e he => (entryComplete_iff m e).mp (hgone e he),
      fun e rest h => (entryComplete_eq_false_iff m e).mp (hfront e rest h)⟩
  · rw [inSet_insert, Bool.or_eq_true, decide_eq_true_iff]
  · rw [inSet_remove, Bool.and_eq_true, Bool.not_eq_true', decide_eq_false_iff_not]
  · rw [completed_of_entry hk he]
    exact ⟨rfl, rfl⟩
  · refine ⟨rfl, membersPast stations g.members q, fun j => ?_, rfl⟩
    rw [membersPast_get, Bool.and_eq_true]

end Sys2Proof.Machine
end

section
/-! A write that fills the record (R34 to R39): the record as the holders then have it, the record
checks, the capacity checks, and what the apply step does to the stations. -/

namespace Sys2Proof.Machine

/-! ### The full record (R31, R34) -/

/-- The job as a write that completes the mask leaves it, with the record in the holders. -/
theorem storedJob_filled {s : State} {t : WriteTxn} {m : Record}
    (hspan : t.addr.toNat % 8 + (txnWords t).length ≤ 8) (hf : FillsRecord s t)
    (hm : HoldersAfter s t m) : storedJob s t = { s.job with mask := 0xFF#8, holders := m } := by
  have hspec := fun j : Fin 8 => storeWords_spec (txnWords t) s.job (t.addr.toNat % 8) j hspan
  have hmask : (storedJob s t).mask = 0xFF#8 := by
    rw [mask_complete_iff]
    intro j
    rw [storedJob, (hspec j).2.2, Bool.or_eq_true, decide_eq_true_iff]
    exact hf j
  have hhold : (storedJob s t).holders = m := by
    apply Vector.ext
    intro i hi
    obtain ⟨hin, hout, -⟩ := hspec ⟨i, hi⟩
    obtain ⟨hmin, hmout⟩ := hm ⟨i, hi⟩
    by_cases h : storesTo t ⟨i, hi⟩
    · obtain ⟨w, hw, e⟩ := hin h
      obtain ⟨w', hw', e'⟩ := hmin h
      obtain rfl := Option.some.inj (hw.symm.trans hw')
      exact e.trans e'.symm
    · exact (hout h).trans (hmout h).symm
  have hframe : storedJob s t = { s.job with
      holders := (storedJob s t).holders, mask := (storedJob s t).mask } := storeWords_frame ..
  rw [hframe, hmask, hhold]

/-- The state in which the commit of the record `m` is attempted. -/
def State.holding (s : State) (n : Fin 8) (m : Record) : State :=
  (s.touched n).setJob { s.job with mask := 0xFF#8, holders := m }

/-- A write that fills the record attempts the commit. -/
theorem exec_fillsRecord {s : State} {r : Regions} {i : Instr} {t : WriteTxn} {n : Fin 8} {m : Record}
    (hw : WritesJournal s r i t n) (hs : StoresWhole s t) (hf : FillsRecord s t)
    (hm : HoldersAfter s t m) :
    exec i s = .next (report s (attemptCommit (.write t) (s.holding n m))) := by
  have hjob : storedJob (s.touched n) t = { s.job with mask := 0xFF#8, holders := m } :=
    storedJob_filled (s := s) hw.span hf hm
  have hs' : StoresWhole (s.touched n) t := hs
  rw [exec_writesJournal hw, journalWrite_stores hs', hjob, if_pos rfl]
  rfl

/-! ### The record checks (R6, R35) -/

theorem recordFault_badCheck {j : Job} (h : checkCorrect j.holders = false) :
    recordFault j = some .badCheck := by
  simp [recordFault, h]

theorem recordFault_badSeq {j : Job} (h : checkCorrect j.holders = true)
    (hq : recSeq j.holders ≠ j.frontier) : recordFault j = some .badSeq := by
  simp [recordFault, h, hq]

theorem recordFault_badFormat {j : Job} (h : checkCorrect j.holders = true)
    (hq : recSeq j.holders = j.frontier) (hf : recWellFormed j.holders = false) :
    recordFault j = some .badFormat := by
  simp [recordFault, h, hq, hf]

theorem recordFault_none {j : Job} (h : checkCorrect j.holders = true)
    (hq : recSeq j.holders = j.frontier) (hf : recWellFormed j.holders = true) :
    recordFault j = none := by
  simp [recordFault, h, hq, hf]

/-- A record that does not meet the three checks fails one of them. -/
theorem recordFault_isSome {j : Job} (h : ¬(checkCorrect j.holders = true
    ∧ recSeq j.holders = j.frontier ∧ recWellFormed j.holders = true)) :
    ∃ e, recordFault j = some e := by
  by_cases hc : checkCorrect j.holders = true
  · by_cases hq : recSeq j.holders = j.frontier
    · exact ⟨_, recordFault_badFormat hc hq (Bool.eq_false_iff.mpr fun hf => h ⟨hc, hq, hf⟩)⟩
    · exact ⟨_, recordFault_badSeq hc hq⟩
  · exact ⟨_, recordFault_badCheck (Bool.eq_false_iff.mpr hc)⟩

/-- The format check, from the record's fields (R6). -/
theorem recWellFormed_iff (m : Record) : recWellFormed m = true ↔
    fieldOf m[0] 16 4 ≤ 6 ∧ m[0].getLsbD 25 = false ∧ m[0].getLsbD 26 = false
      ∧ (fieldOf m[0] 16 4 = 0 → m[4].toNat ≤ 359999)
      ∧ (fieldOf m[0] 16 4 ≤ 2 → fieldOf m[6] 0 16 ≠ 0) := by
  unfold recWellFormed recKind recClamped recFeedClamp recFeed
  match fieldOf m[0] 16 4 with
  | 0 | 1 | 2 | 3 | 4 | 5 | 6 => simp [kindOfCode, isMotion, and_assoc]
  | _ + 7 => simp [kindOfCode]

/-! ### A commit attempt that ends at once (R35, R36) -/

theorem attemptCommit_failed {p : ProcTxn} {s : State} {e : ErrorKind}
    (h : recordFault s.job = some e) :
    attemptCommit p s = ((s.setJob s.job.emptyAssembler).mark .job).refuse e p := by
  unfold attemptCommit
  rw [h]

theorem attemptCommit_checked {p : ProcTxn} {s : State} (h : recordFault s.job = none) :
    attemptCommit p s = if capacityFault s = true then s.answer .retry else startApply p s := by
  unfold attemptCommit
  rw [h]

/-- A mark made before a refusal is among what the refusal leaves open. -/
theorem Refuses.of_mark {b t : State} {r : RecordId} {p : ProcTxn} {e : ErrorKind}
    (h : Refuses (b.mark r) p e t) : Refuses b p e t := by
  obtain ⟨hframe, howed, hpending, hwrite, hpos, hkept, hmarked⟩ := h
  exact ⟨hframe, howed, hpending, hwrite, hpos,
    fun q hq => hkept q (Marks.get_set_kept _ _ _ hq), hmarked⟩

/-- A full record that a check refuses leaves the assembler empty (R29, R35). -/
theorem refusedFrom_recordFault {s : State} {i : Instr} {t : WriteTxn} {n : Fin 8} {m : Record}
    {e : ErrorKind}
    (hx : exec i s = .next (report s (attemptCommit (.write t) (s.holding n m))))
    (h : recordFault (s.holding n m).job = some e) :
    RefusedFrom i s { s.touched n with job := { s.job with mask := 0#8, holders := zeroRecord } }
      (.write t) e := by
  rw [attemptCommit_failed h] at hx
  obtain ⟨u, hu, hr⟩ := refusedFrom_of hx
  exact ⟨u, hu, hr.of_mark⟩

/-- A full record that a check refuses marks the job record (R29). -/
theorem recordFault_marks_job {s b : State} {p : ProcTxn} {e : ErrorKind}
    (h : recordFault b.job = some e) :
    (report s (attemptCommit p b)).writer.marks.get .job = true := by
  rw [attemptCommit_failed h, report_marks_get, Bool.or_eq_true]
  refine .inl ?_
  show (((b.setJob b.job.emptyAssembler).mark .job).logError e .processor p.isWrite (byteAddr p.addr)
    p.firstData none).writer.marks.get .job = true
  rw [logError_marks, mark_get, decide_eq_true rfl, Bool.true_or, Bool.or_true]

/-! ### The capacity checks (R36) -/

theorem atOverwrite_iff (s : State) (k : StationId) :
    atOverwrite s.job s.stations[k] = true ↔ StandsAtOverwrite s k := by
  unfold atOverwrite StandsAtOverwrite
  rw [Bool.and_eq_true, Bool.or_eq_true, beq_iff_eq, beq_iff_eq, beq_iff_eq]
  rfl

theorem liveFull_iff (s : State) (k : StationId) :
    liveFull s.stations[k] = true ↔ LiveAndFull s k := by
  unfold liveFull LiveAndFull ringFull
  rw [Bool.and_eq_true, beq_iff_eq, beq_iff_eq]
  rfl

theorem any_stationOrder (p : StationId → Bool) : stationOrder.any p = true ↔ ∃ k, p k = true := by
  rw [List.any_eq_true]
  exact exists_congr fun k => and_iff_right (stationOrder_complete k)

theorem capacityFault_iff (s : State) : capacityFault s = true ↔
    (recSync s.job.holders = true ∧ 4 ≤ s.gate.entries.length)
      ∨ (s.job.policy = .keep ∧ ∃ k, StandsAtOverwrite s k)
      ∨ ∃ k, LiveAndFull s k ∧ cbLagDetach s.shadows.stations[k] = false := by
  unfold capacityFault
  simp only [Bool.or_eq_true, Bool.and_eq_true, Bool.not_eq_true', beq_iff_eq, decide_eq_true_iff,
    any_stationOrder, atOverwrite_iff, liveFull_iff, or_assoc]

/-- Filling the holders changes nothing that the capacity checks read but the record itself. -/
theorem holding_capacityFault_iff (s : State) (n : Fin 8) (m : Record) :
    capacityFault (s.holding n m) = true ↔
      (recSync m = true ∧ 4 ≤ s.gate.entries.length)
        ∨ (s.job.policy = .keep ∧ ∃ k, StandsAtOverwrite s k)
        ∨ ∃ k, LiveAndFull s k ∧ cbLagDetach s.shadows.stations[k] = false :=
  capacityFault_iff (s.holding n m)

/-! ### Feeds that the apply step moves (R37, R38) -/

/-- From `s` to `u` the feeds of the stations of `p` have become `f`, each owing its event bit, with the
gate told; the other stations are as they were. -/
structure FeedsMoved (p : StationId → Prop) (f : Feed) (s u : State) : Prop where
  moved : ∀ k, p k → u.stations[k] = { s.stations[k] with feed := f }
    ∧ u.writer.owed.get (.station k) = s.writer.owed.get (.station k) ||| eventBit k
  kept : ∀ k, ¬p k → u.stations[k] = s.stations[k]
    ∧ u.writer.owed.get (.station k) = s.writer.owed.get (.station k)
  gate : GateHoldsMembers s → GateHoldsMembers u
  frame : u = { s with
    stations := u.stations, gate := u.gate, replay := u.replay, writer := u.writer }

theorem FeedsMoved.job {p : StationId → Prop} {f : Feed} {s u : State} (h : FeedsMoved p f s u) :
    u.job = s.job := by
  rw [h.frame]

theorem FeedsMoved.shadows {p : StationId → Prop} {f : Feed} {s u : State} (h : FeedsMoved p f s u) :
    u.shadows = s.shadows := by
  rw [h.frame]

theorem FeedsMoved.refl {p : StationId → Prop} (f : Feed) (s : State) (hp : ∀ k, ¬p k) :
    FeedsMoved p f s s where
  moved k hk := absurd hk (hp k)
  kept _ _ := ⟨rfl, rfl⟩
  gate := id
  frame := rfl

/-- Two moves leave together what each leaves. -/
theorem FeedsMoved.frame_trans {p q : StationId → Prop} {f g : Feed} {s t u : State}
    (h1 : FeedsMoved p f s t) (h2 : FeedsMoved q g t u) : u = { s with
      stations := u.stations, gate := u.gate, replay := u.replay, writer := u.writer } := by
  have e := h2.frame
  rw [h1.frame] at e
  exact e

/-- Two moves of different stations make one. -/
theorem FeedsMoved.trans {p q r : StationId → Prop} {f : Feed} {s t u : State}
    (h1 : FeedsMoved p f s t) (h2 : FeedsMoved q f t u) (hpq : ∀ k, p k → ¬q k)
    (hr : ∀ k, r k ↔ p k ∨ q k) : FeedsMoved r f s u where
  moved k hk := by
    rcases (hr k).mp hk with hp | hq
    · obtain ⟨e, w⟩ := h2.kept k (hpq k hp)
      rw [e, w]
      exact h1.moved k hp
    · obtain ⟨e, w⟩ := h2.moved k hq
      obtain ⟨e', w'⟩ := h1.kept k fun hp => hpq k hp hq
      rw [e, w, e', w']
      exact ⟨rfl, rfl⟩
  kept k hk := by
    obtain ⟨e, w⟩ := h2.kept k fun hq => hk ((hr k).mpr (.inr hq))
    obtain ⟨e', w'⟩ := h1.kept k fun hp => hk ((hr k).mpr (.inl hp))
    exact ⟨e.trans e', w.trans w'⟩
  gate h := h2.gate (h1.gate h)
  frame := h1.frame_trans h2

/-- One station's feed moved, with the event owed and the gate told. -/
theorem FeedsMoved.single (s : State) (k : StationId) (f : Feed) (turn : Replay) :
    FeedsMoved (· = k) f s (State.oweEvent
      { s with stations := s.stations.set k { s.stations[k] with feed := f }
               replay := turn
               gate := s.gate.told k { s.stations[k] with feed := f } } k) where
  moved j hj := by
    subst hj
    refine ⟨get_set_self _ _ _, ?_⟩
    unfold State.oweEvent
    rw [owe_get, if_pos rfl]
  kept j hj := by
    refine ⟨get_set_ne _ _ _ _ hj, ?_⟩
    unfold State.oweEvent
    rw [owe_get, if_neg fun e => hj (RecordId.station.inj e)]
  gate h := told_holdsMembers h rfl rfl
  frame := rfl

theorem FeedsMoved.congr {p q : StationId → Prop} {f : Feed} {s u : State} (h : FeedsMoved p f s u)
    (hpq : ∀ k, q k ↔ p k) : FeedsMoved q f s u := by
  rwa [show q = p from funext fun k => propext (hpq k)]

/-- A move made station by station, where whether a station moves is read off the job, the shadows and
that station alone. -/
theorem FeedsMoved.foldl {step : State → StationId → State} {c : State → StationId → Prop} {f : Feed}
    (hstep : ∀ s k, FeedsMoved (fun j => j = k ∧ c s k) f s (step s k))
    (hlocal : ∀ s u k, u.job = s.job → u.shadows = s.shadows → u.stations[k] = s.stations[k] →
      (c u k ↔ c s k)) :
    ∀ (l : List StationId) (s : State), l.Nodup →
      FeedsMoved (fun j => j ∈ l ∧ c s j) f s (l.foldl step s)
  | [], s, _ => FeedsMoved.refl f s fun _ h => List.not_mem_nil h.1
  | k :: l, s, hn => by
    obtain ⟨hk, hl⟩ := List.nodup_cons.mp hn
    have hfirst := hstep s k
    have hrest := FeedsMoved.foldl hstep hlocal l (step s k) hl
    have hsame : ∀ j, j ∈ l → (c (step s k) j ↔ c s j) := fun j hj =>
      hlocal s (step s k) j hfirst.job hfirst.shadows
        (hfirst.kept j fun h => hk (h.1 ▸ hj)).1
    refine hfirst.trans hrest (fun j hj h => hk (hj.1 ▸ h.1)) fun j => ?_
    rw [List.mem_cons, or_and_right]
    refine or_congr ⟨fun h => ⟨h.1, h.1 ▸ h.2⟩, fun h => ⟨h.1, h.1 ▸ h.2⟩⟩ ?_
    exact and_congr_right fun hj => (hsame j hj).symm

/-- A station at frontier − N under YIELD (R37). -/
def YieldsOverwritten (s : State) (k : StationId) : Prop :=
  s.job.policy = .yield ∧ StandsAtOverwrite s k

/-- A LIVE station with a full ring and the lag policy DETACH (R38). -/
def DetachesLagging (s : State) (k : StationId) : Prop :=
  LiveAndFull s k ∧ cbLagDetach s.shadows.stations[k] = true

theorem moveOverwritten_moves (s : State) (k : StationId) :
    FeedsMoved (fun j => j = k ∧ YieldsOverwritten s k) (.lost .overwritten) s
      (s.moveOverwritten k) := by
  have hc : s.job.policy = .yield ∧ atOverwrite s.job s.stations[k] = true ↔ YieldsOverwritten s k :=
    and_congr_right' (atOverwrite_iff s k)
  unfold State.moveOverwritten
  by_cases h : YieldsOverwritten s k
  · rw [if_pos (hc.mpr h)]
    refine FeedsMoved.congr ?_ fun j => and_iff_left h
    rcases h.2.1 with hf | hf
    · rw [loseFeed_detached _ hf]
      exact FeedsMoved.single s k _ s.replay
    · rw [loseFeed_catchup _ hf]
      exact FeedsMoved.single s k _ _
  · rw [if_neg fun hh => h (hc.mp hh)]
    exact FeedsMoved.refl _ s fun _ hj => h hj.2

theorem moveLagging_moves (s : State) (k : StationId) :
    FeedsMoved (fun j => j = k ∧ DetachesLagging s k) .detached s (s.moveLagging k) := by
  have hc : liveFull s.stations[k] = true ∧ cbLagDetach s.shadows.stations[k] = true ↔
      DetachesLagging s k := and_congr_left' (liveFull_iff s k)
  unfold State.moveLagging
  by_cases h : DetachesLagging s k
  · rw [if_pos (hc.mpr h), detachFeed_live h.1.1]
    exact (FeedsMoved.single s k _ s.replay).congr fun j => and_iff_left h
  · rw [if_neg fun hh => h (hc.mp hh)]
    exact FeedsMoved.refl _ s fun _ hj => h hj.2

theorem overwrittenFold_moves (s : State) :
    FeedsMoved (YieldsOverwritten s) (.lost .overwritten) s
      (stationOrder.foldl State.moveOverwritten s) :=
  (FeedsMoved.foldl moveOverwritten_moves
    (fun s u k hj _ hk => by unfold YieldsOverwritten StandsAtOverwrite; rw [hj, hk])
    stationOrder s stationOrder_nodup).congr
    fun k => (and_iff_right (stationOrder_complete k)).symm

theorem laggingFold_moves (s : State) :
    FeedsMoved (DetachesLagging s) .detached s (stationOrder.foldl State.moveLagging s) :=
  (FeedsMoved.foldl moveLagging_moves
    (fun s u k _ hh hk => by unfold DetachesLagging LiveAndFull; rw [hh, hk])
    stationOrder s stationOrder_nodup).congr
    fun k => (and_iff_right (stationOrder_complete k)).symm

/-! ### The apply step (R37 to R39) -/

/-- What the apply step does to one station: LOST at frontier − N, DETACHED when LIVE and full, each
owing its event bit, and otherwise as it was. -/
structure StationApplied (s u : State) (k : StationId) : Prop where
  overwritten : StandsAtOverwrite s k →
    u.stations[k] = { s.stations[k] with feed := .lost .overwritten }
    ∧ u.writer.owed.get (.station k) = s.writer.owed.get (.station k) ||| eventBit k
  lagging : LiveAndFull s k → u.stations[k] = { s.stations[k] with feed := .detached }
    ∧ u.writer.owed.get (.station k) = s.writer.owed.get (.station k) ||| eventBit k
  other : ¬StandsAtOverwrite s k → ¬LiveAndFull s k → u.stations[k] = s.stations[k]
    ∧ u.writer.owed.get (.station k) = s.writer.owed.get (.station k)

/-- A station at frontier − N is not LIVE, so the two acts of the apply step move different stations. -/
theorem StandsAtOverwrite.not_liveAndFull {s : State} {k : StationId} (h : StandsAtOverwrite s k) :
    ¬LiveAndFull s k := by
  rintro ⟨hl, -⟩
  rcases h.1 with hf | hf <;> rw [hf] at hl <;> cases hl

/-- The stations once both acts are done, where every station at frontier − N yields and every LIVE one
with a full ring detaches. -/
theorem applied_of_moves {s t u : State} {k : StationId}
    (h1 : FeedsMoved (YieldsOverwritten s) (.lost .overwritten) s t)
    (h2 : FeedsMoved (DetachesLagging t) .detached t u)
    (hyield : StandsAtOverwrite s k → s.job.policy = .yield)
    (hlag : LiveAndFull s k → cbLagDetach s.shadows.stations[k] = true) : StationApplied s u k := by
  have hlagging : ¬StandsAtOverwrite s k → (DetachesLagging t k ↔ LiveAndFull s k) := fun hn => by
    unfold DetachesLagging LiveAndFull
    rw [(h1.kept k fun h => hn h.2).1, h1.shadows]
    exact and_iff_left_of_imp hlag
  have hsame : ¬StandsAtOverwrite s k → t.stations[k] = s.stations[k]
      ∧ t.writer.owed.get (.station k) = s.writer.owed.get (.station k) := fun hn =>
    h1.kept k fun h => hn h.2
  refine ⟨fun h => ?_, fun h => ?_, fun h hl => ?_⟩
  · obtain ⟨e, w⟩ := h1.moved k ⟨hyield h, h⟩
    obtain ⟨e', w'⟩ := h2.kept k fun hd => by
      have hlive := hd.1.1
      rw [e] at hlive
      cases hlive
    exact ⟨e'.trans e, w'.trans w⟩
  · have hn : ¬StandsAtOverwrite s k := fun h' => h'.not_liveAndFull h
    obtain ⟨e, w⟩ := h2.moved k ((hlagging hn).mpr h)
    obtain ⟨e', w'⟩ := hsame hn
    rw [e, w, e', w']
    exact ⟨rfl, rfl⟩
  · obtain ⟨e, w⟩ := h2.kept k fun hd => hl ((hlagging h).mp hd)
    obtain ⟨e', w'⟩ := hsame h
    exact ⟨e.trans e', w.trans w'⟩

/-- With no capacity check failing, a station at frontier − N yields and a LIVE one with a full ring
detaches. -/
theorem capacityFault_false {s : State} (h : ¬capacityFault s = true) (k : StationId) :
    (StandsAtOverwrite s k → s.job.policy = .yield)
      ∧ (LiveAndFull s k → cbLagDetach s.shadows.stations[k] = true) := by
  rw [capacityFault_iff] at h
  constructor
  · intro hk
    cases hp : s.job.policy with
    | keep => exact absurd (.inr (.inl ⟨hp, k, hk⟩)) h
    | yield => rfl
  · intro hk
    cases hd : cbLagDetach s.shadows.stations[k] with
    | false => exact absurd (.inr (.inr ⟨k, hk, hd⟩)) h
    | true => rfl

/-- The two acts of the apply step, with the state between them (R37, R38). -/
theorem startApply_moves (p : ProcTxn) (s : State) : ∃ t u,
    FeedsMoved (YieldsOverwritten (s.setJob { s.job with inFlight := true })) (.lost .overwritten)
      (s.setJob { s.job with inFlight := true }) t
    ∧ FeedsMoved (DetachesLagging t) .detached t u
    ∧ startApply p s = u.startWork p (.journalWrite (fanOutSet u)) :=
  ⟨_, _, overwrittenFold_moves _, laggingFold_moves _, rfl⟩

/-- The apply step up to the request of the journal write (R37 to R39). -/
theorem startApply_spec {s v : State} {p : ProcTxn} (h : ¬capacityFault s = true)
    (hv : startApply p s = v) :
    v.proc = ⟨some ⟨p, .journalWrite (stationOrder.filter fun k => v.stations[k].feed == .live)⟩, none⟩
    ∧ v.job = { s.job with inFlight := true }
    ∧ (∀ k, StationApplied s v k)
    ∧ (GateHoldsMembers s → GateHoldsMembers v)
    ∧ v = { s with job := v.job, proc := v.proc, stations := v.stations, gate := v.gate
                   replay := v.replay, writer := v.writer } := by
  obtain ⟨t, u, h1, h2, e⟩ := startApply_moves p s
  rw [e] at hv
  subst hv
  refine ⟨rfl, h2.job.trans h1.job, fun k => ?_, fun hg => h2.gate (h1.gate hg), ?_⟩
  · obtain ⟨hyield, hlag⟩ := capacityFault_false h k
    obtain ⟨ho, hl, hn⟩ := applied_of_moves (k := k) h1 h2 hyield hlag
    exact ⟨ho, hl, hn⟩
  · have hjob : (u.startWork p (.journalWrite (fanOutSet u))).job = { s.job with inFlight := true } :=
      h2.job.trans h1.job
    rw [hjob]
    exact congrArg (fun x : State => x.startWork p (.journalWrite (fanOutSet u))) (h1.frame_trans h2)

/-- Settles O29: the record checks, the capacity checks and the apply step, each by its own lemma on the
state in which the commit is attempted. -/
theorem fullRecordChecked : Obligations.FullRecordChecked := by
  refine ⟨fun s r i t n m hw hs hf hm => ?_, recWellFormed_iff⟩
  have hx := exec_fillsRecord hw hs hf hm
  have hfull := holding_capacityFault_iff s n m
  refine ⟨fun hc => refusedFrom_recordFault hx (recordFault_badCheck hc),
    fun hc hq => refusedFrom_recordFault hx (recordFault_badSeq hc hq),
    fun hc hq hwf => refusedFrom_recordFault hx (recordFault_badFormat hc hq hwf),
    fun hbad u hu => ?_, fun hc hq hwf hcap => ?_, fun hc hq hwf hcap => ?_⟩
  · obtain ⟨e, he⟩ := recordFault_isSome (j := (s.holding n m).job) hbad
    obtain rfl := Host.Outcome.next.inj (hx.symm.trans hu)
    exact recordFault_marks_job he
  · have hnone : recordFault (s.holding n m).job = none := recordFault_none hc hq hwf
    rw [attemptCommit_checked hnone, if_pos (hfull.mpr hcap)] at hx
    exact ⟨_, hx, rfl, rfl⟩
  · have hno : ¬capacityFault (s.holding n m) = true := fun h => hcap (hfull.mp h)
    have hnone : recordFault (s.holding n m).job = none := recordFault_none hc hq hwf
    rw [attemptCommit_checked hnone, if_neg hno] at hx
    generalize hv : startApply (.write t) (s.holding n m) = v at hx
    obtain ⟨hproc, hjob, hst, hgate, hframe⟩ := startApply_spec hno hv
    refine ⟨_, hx, hproc, hjob, fun k => ?_, hgate, ?_⟩
    · exact ⟨(hst k).overwritten, (hst k).lagging, (hst k).other⟩
    · exact congrArg (fun x : State => { x with writer := (report s v).writer }) hframe

end Sys2Proof.Machine
end

section
/-! Bounds that every step keeps (R21, R48, R88, R106, R166, R177): one relation for the five of them,
which each operation of the model meets, and which therefore every command meets. -/

namespace Sys2Proof.Machine

/-! ### The relation -/

/-- From `s` to `t` each of the five bounds is kept. An operation that leaves alone what a bound speaks of
keeps it by `id`. -/
structure KeepsBounds (s t : State) : Prop where
  queues : QueueHasRoom s → QueueHasRoom t
  gateList : GateListFits s → GateListFits t
  bits : PendingBitsNamed s → PendingBitsNamed t
  hold : HoldCarriesHolder s → HoldCarriesHolder t
  sizes : SizesFit s → SizesFit t

theorem KeepsBounds.refl (s : State) : KeepsBounds s s := ⟨id, id, id, id, id⟩

theorem KeepsBounds.trans {s t u : State} (h : KeepsBounds s t) (g : KeepsBounds t u) :
    KeepsBounds s u where
  queues := g.queues ∘ h.queues
  gateList := g.gateList ∘ h.gateList
  bits := g.bits ∘ h.bits
  hold := g.hold ∘ h.hold
  sizes := g.sizes ∘ h.sizes

/-- The part of the receive queue's bound that speaks of one link. -/
def LinkHasRoom (l : Link) : Prop :=
  l.queue.length ≤ 2 ∧ ∀ f, l.rx = some f → f.mode = .received → l.queue.length ≤ 1

theorem queueHasRoom_iff (s : State) : QueueHasRoom s ↔ ∀ k : StationId, LinkHasRoom s.links[k] := Iff.rfl

/-! ### Words of pending bits (R166) -/

theorem named_or {a b : Word} (ha : named a) (hb : named b) : named (a ||| b) := by
  unfold named at *
  rw [BitVec.and_or_distrib_right, ha, hb, BitVec.or_zero]

theorem named_and {a : Word} (b : Word) (ha : named a) : named (a &&& b) := by
  unfold named at *
  rw [BitVec.and_assoc, BitVec.and_comm b, ← BitVec.and_assoc, ha, BitVec.zero_and]

theorem named_zero : named 0#32 := BitVec.zero_and

theorem named_eventBit (k : StationId) : named (eventBit k) := by
  unfold named
  revert k
  decide

theorem named_jobDoneBit : named jobDoneBit := by
  unfold named
  decide

theorem named_errorLoggedBit : named errorLoggedBit := by
  unfold named
  decide

theorem named_commandDoneBit (k : StationId) : named (commandDoneBit k) := by
  unfold named
  revert k
  decide

/-! ### Updates of one part -/

theorem setStation_bounds (s : State) (k : StationId) {x : Station}
    (h : s.stations[k].capacity ≤ 1024 → x.capacity ≤ 1024) :
    KeepsBounds s (s.setStation k x) where
  queues := id
  gateList := id
  bits := id
  hold := id
  sizes hs := by
    refine ⟨hs.1, fun j => ?_⟩
    rw [setStation_stations_get]
    split
    · exact h (hs.2 k)
    · exact hs.2 j

theorem setLink_bounds (s : State) (k : StationId) {x : Link}
    (h : LinkHasRoom s.links[k] → LinkHasRoom x) : KeepsBounds s (s.setLink k x) where
  queues hs := by
    rw [queueHasRoom_iff] at hs ⊢
    intro j
    by_cases hj : j = k
    · subst hj
      rw [setLink_get]
      exact h (hs j)
    · rw [setLink_links, get_set_ne _ _ _ _ hj]
      exact hs j
  gateList := id
  bits := id
  hold := id
  sizes := id

/-- An update of a link that leaves its queue and its frame assembler alone. -/
theorem setLink_same_bounds (s : State) (k : StationId) {x : Link}
    (h : x.queue = s.links[k].queue ∧ x.rx = s.links[k].rx) :
    KeepsBounds s (s.setLink k x) :=
  setLink_bounds s k fun hroom => by
    unfold LinkHasRoom
    rw [h.1, h.2]
    exact hroom

theorem setGate_bounds (s : State) {g : Gate} (h : g.entries.length ≤ s.gate.entries.length) :
    KeepsBounds s (s.setGate g) where
  queues := id
  gateList hs := ⟨h.trans hs.1, fun hc hr => h.trans (hs.2 hc hr)⟩
  bits := id
  hold := id
  sizes := id

theorem setJob_bounds (s : State) {j : Job} (hs : s.job.slots ≤ 16384 → j.slots ≤ 16384)
    (hr : recSync j.holders = true → recSync s.job.holders = true) : KeepsBounds s (s.setJob j) where
  queues := id
  gateList h := ⟨h.1, fun hc hj => h.2 hc (hr hj)⟩
  bits := id
  hold := id
  sizes h := ⟨hs h.1, h.2⟩

theorem setTurn_bounds (s : State) (t : Option ReplayTurn) : KeepsBounds s (s.setTurn t) := ⟨id, id, id, id, id⟩

theorem setBreak_bounds (s : State) (k : StationId) (m : Monitor) : KeepsBounds s (s.setBreak k m) := ⟨id, id, id, id, id⟩

theorem reach_bounds (s : State) (t : Nat) : KeepsBounds s (s.reach t) := ⟨id, id, id, id, id⟩

theorem setCounters_bounds (s : State) (k : StationId) (c : Counters) :
    KeepsBounds s (s.setCounters k c) := setStation_bounds s k id

theorem mark_bounds (s : State) (r : RecordId) : KeepsBounds s (s.mark r) := ⟨id, id, id, id, id⟩

theorem owe_bounds (s : State) (r : RecordId) {bits : Word} (h : named bits) :
    KeepsBounds s (s.owe r bits) where
  queues := id
  gateList := id
  bits hs := by
    obtain ⟨hp, ho, hw⟩ := hs
    refine ⟨hp, fun q => ?_, hw⟩
    rw [owe_get]
    split
    · exact named_or (ho q) h
    · exact ho q
  hold := id
  sizes := id

theorem oweEvent_bounds (s : State) (k : StationId) : KeepsBounds s (s.oweEvent k) :=
  owe_bounds s _ (named_eventBit k)

/-- Work taken up for the processor, where it is a commit's only when a commit was under way. -/
theorem startWork_bounds (s : State) (p : ProcTxn) (w : TransitWork)
    (h : committing (s.startWork p w) = true → committing s = true) :
    KeepsBounds s (s.startWork p w) where
  queues := id
  gateList hs := ⟨hs.1, fun hc hr => hs.2 (h hc) hr⟩
  bits := id
  hold := id
  sizes := id

theorem answer_bounds (s : State) (a : ProcAnswer) : KeepsBounds s (s.answer a) where
  queues := id
  gateList hs := ⟨hs.1, fun hc => nomatch hc⟩
  bits := id
  hold := id
  sizes := id

theorem portAnswered_bounds (s : State) : KeepsBounds s s.portAnswered where
  queues := id
  gateList := id
  bits := id
  hold _ _ hh := nomatch hh
  sizes := id

theorem report_bounds (s t : State) : KeepsBounds t (report s t) := ⟨id, id, id, id, id⟩

theorem deferred_bounds (t : State) (late : List Requester) (s : State) :
    KeepsBounds t (t.deferred late s) := ⟨id, id, id, id, id⟩

/-- An operation on each station of a list. -/
theorem foldl_bounds {f : State → StationId → State} (h : ∀ s k, KeepsBounds s (f s k)) :
    ∀ (l : List StationId) (s : State), KeepsBounds s (l.foldl f s)
  | [], s => .refl s
  | k :: l, s => (h s k).trans (foldl_bounds h l (f s k))

/-! ### The shared operations -/

theorem logError_bounds (s : State) (e : ErrorKind) (o : Origin) (w : Bool) (a d : Word)
    (st : Option StationId) : KeepsBounds s (s.logError e o w a d st) := by
  unfold State.logError
  split
  · exact .trans (t := { s with log := some ⟨e, o, w, a, d, st, 0#8⟩ }) ⟨id, id, id, id, id⟩
      ((mark_bounds _ _).trans (owe_bounds _ _ named_errorLoggedBit))
  · exact ⟨id, id, id, id, id⟩

theorem refuse_bounds (s : State) (e : ErrorKind) (p : ProcTxn) : KeepsBounds s (s.refuse e p) :=
  (logError_bounds ..).trans (answer_bounds ..)

theorem completeStation_bounds (s : State) (k : StationId) (c : BitVec 4) (r : Result) :
    KeepsBounds s (s.completeStation k c r) :=
  ((setStation_bounds s k (by exact id)).trans (mark_bounds ..)).trans
    (owe_bounds _ _ (named_commandDoneBit k))

theorem completeJob_bounds (s : State) (c : BitVec 4) (r : Result) :
    KeepsBounds s (s.completeJob c r) :=
  ((setJob_bounds s (by exact id) (by exact id)).trans (mark_bounds ..)).trans
    (owe_bounds _ _ named_jobDoneBit)

theorem releaseEntries_length_le (m : StationSet) (l : List GateEntry) :
    (releaseEntries m l).length ≤ l.length := by
  obtain ⟨gone, hl, -⟩ := releaseEntries_spec m l
  have := congrArg List.length hl
  rw [List.length_append] at this
  omega

/-- No operation of the gate but the insertion makes its list longer (R90 to R92, R94). -/
theorem join_length_le (g : Gate) (k : StationId) (q : Seq) :
    (g.join k q).entries.length ≤ g.entries.length :=
  (releaseEntries_length_le ..).trans (List.length_map ..).le

theorem leave_length_le (g : Gate) (k : StationId) :
    (g.leave k).entries.length ≤ g.entries.length :=
  (releaseEntries_length_le ..).trans (List.length_map ..).le

theorem completed_length_le (g : Gate) (k : StationId) (q : Seq) :
    (g.completed k q).entries.length ≤ g.entries.length := by
  unfold Gate.completed
  split
  · exact (releaseEntries_length_le ..).trans (List.length_map ..).le
  · exact Nat.le_refl _

theorem told_length_le (g : Gate) (k : StationId) (st : Station) :
    (g.told k st).entries.length ≤ g.entries.length := by
  unfold Gate.told
  split
  · exact join_length_le ..
  · split
    · exact leave_length_le ..
    · exact Nat.le_refl _

theorem tellGate_bounds (s : State) (k : StationId) : KeepsBounds s (s.tellGate k) := by
  rw [tellGate_eq]
  exact setGate_bounds s (told_length_le ..)

/-- A rewind and the placing of a HALT leave the receiver of the link alone (R56, R57). -/
theorem placeHalt_receiver (l : Link) (h : Option Byte) :
    (l.placeHalt h).queue = l.queue ∧ (l.placeHalt h).rx = l.rx := by
  unfold Link.placeHalt
  split <;> exact ⟨rfl, rfl⟩

theorem enterDrive_bounds (s : State) (k : StationId) (d : Drive) (h : Option Byte) :
    KeepsBounds s (s.enterDrive k d h) := by
  exact ((setLink_same_bounds s k (placeHalt_receiver s.links[k].rewind h)).trans
    (setStation_bounds _ k (by exact id))).trans (tellGate_bounds ..)

theorem requestHeld_bounds (s : State) (k : StationId) (r : HoldReason) :
    KeepsBounds s (s.requestHeld k r) := by
  unfold State.requestHeld
  split
  · simp only []
    split
    · exact (enterDrive_bounds ..).trans (oweEvent_bounds ..)
    · exact enterDrive_bounds ..
  all_goals exact .refl s

theorem requestFault_bounds (s : State) (k : StationId) (c : FaultCode) :
    KeepsBounds s (s.requestFault k c) := by
  unfold State.requestFault
  split
  · exact (enterDrive_bounds ..).trans (oweEvent_bounds ..)
  · exact (enterDrive_bounds ..).trans (oweEvent_bounds ..)
  all_goals exact .refl s

theorem overtake_bounds (s : State) (k : StationId) : KeepsBounds s (s.overtake k) := by
  rw [overtake_eq]
  exact ⟨id, id, id, id, id⟩

/-- The feed of a station changes, its turn is overtaken or not, and the gate is told. -/
theorem setFeed_bounds (s : State) (k : StationId) (f : Feed) :
    KeepsBounds s (((s.setStation k { s.stations[k] with feed := f }).tellGate k).oweEvent k)
    ∧ KeepsBounds s
      ((((s.setStation k { s.stations[k] with feed := f }).overtake k).tellGate k).oweEvent k) := by
  have h : KeepsBounds s (s.setStation k { s.stations[k] with feed := f }) :=
    setStation_bounds s k id
  exact ⟨(h.trans (tellGate_bounds ..)).trans (oweEvent_bounds ..),
    ((h.trans (overtake_bounds ..)).trans (tellGate_bounds ..)).trans (oweEvent_bounds ..)⟩

theorem loseFeed_bounds (s : State) (k : StationId) (r : LossReason) :
    KeepsBounds s (s.loseFeed k r) := by
  unfold State.loseFeed
  split
  · exact (setFeed_bounds s k _).1
  · exact (setFeed_bounds s k _).2
  all_goals exact .refl s

theorem detachFeed_bounds (s : State) (k : StationId) : KeepsBounds s (s.detachFeed k) := by
  unfold State.detachFeed
  split
  · exact (setFeed_bounds s k _).1
  · exact (setFeed_bounds s k _).2
  all_goals exact .refl s

theorem joinLive_bounds (s : State) (k : StationId) : KeepsBounds s (s.joinLive k) := by
  unfold State.joinLive
  split
  · exact (setStation_bounds s k (by exact id)).trans (oweEvent_bounds ..)
  · exact .refl s

theorem weighDrain_bounds (s : State) (k : StationId) : KeepsBounds s (s.weighDrain k) := by
  unfold State.weighDrain
  split
  · exact setLink_same_bounds s k ⟨rfl, rfl⟩
  · exact .refl s

theorem countClamp_bounds (s : State) (k : StationId) (c : Record) :
    KeepsBounds s (s.countClamp k c) := by
  unfold State.countClamp
  simp only []
  split
  · exact setCounters_bounds ..
  · exact .refl s

/-- An emptied queue has room. -/
theorem discardQueue_bounds (s : State) (k : StationId) : KeepsBounds s (s.discardQueue k) :=
  (setCounters_bounds s k _).trans
    (setLink_bounds _ k fun _ => ⟨Nat.zero_le _, fun _ _ _ => Nat.zero_le _⟩)

end Sys2Proof.Machine
end

section
/-! The commands of the inputs, of the links and of the control blocks, each in terms of the shared
operations, keep the bounds. -/

namespace Sys2Proof.Machine

/-! ### Break and stop inputs -/

theorem breakEdge_bounds (s : State) (k : StationId) : KeepsBounds s (s.breakEdge k) :=
  ((((setCounters_bounds ..).trans (mark_bounds ..)).trans (oweEvent_bounds ..)).trans
    (requestHeld_bounds ..)).trans (weighDrain_bounds ..)

theorem breakQualifies_bounds (s : State) (k : StationId) : KeepsBounds s (s.breakQualifies k) := by
  have h : KeepsBounds s ((s.setBreak k s.breaks[k].qualify).mark (.station k)) :=
    (setBreak_bounds ..).trans (mark_bounds ..)
  unfold State.breakQualifies
  simp only []
  split
  · exact h.trans (breakEdge_bounds ..)
  · exact h

theorem breakDue_bounds (s : State) (k : StationId) : KeepsBounds s (s.breakDue k) := by
  unfold State.breakDue
  split
  · split
    · exact breakQualifies_bounds ..
    · exact .refl s
  · exact .refl s

theorem breakLineChange_bounds (k : StationId) (level : Bool) (s : State) :
    KeepsBounds s (breakLineChange k level s) :=
  ((breakDue_bounds ..).trans (setBreak_bounds ..)).trans (breakDue_bounds ..)

theorem breakQualifiedChange_bounds (k : StationId) (s : State) :
    KeepsBounds s (breakQualifiedChange k s) := by
  unfold breakQualifiedChange
  split
  · exact (reach_bounds ..).trans (breakQualifies_bounds ..)
  · exact .refl s

theorem stopChanges_bounds (s : State) : KeepsBounds s s.stopChanges := by
  have hq : KeepsBounds s s.stopQualifies :=
    .trans (t := { s with stop := s.stop.qualify }) ⟨id, id, id, id, id⟩
      ((mark_bounds ..).trans (owe_bounds _ _ (by unfold named; decide)))
  unfold State.stopChanges
  split
  · exact hq
  · exact hq.trans (foldl_bounds
      (fun t k => (requestHeld_bounds t k _).trans (weighDrain_bounds ..)) _ _)

theorem stopDue_bounds (s : State) : KeepsBounds s s.stopDue := by
  unfold State.stopDue
  split
  · split
    · exact stopChanges_bounds s
    · exact .refl s
  · exact .refl s

theorem stopLineChange_bounds (level : Bool) (s : State) : KeepsBounds s (stopLineChange level s) :=
  (stopDue_bounds s).trans ⟨id, id, id, id, id⟩

theorem stopAssertion_bounds (s : State) : KeepsBounds s (stopAssertion s) := by
  unfold stopAssertion
  split
  · exact (reach_bounds ..).trans (stopChanges_bounds _)
  all_goals exact .refl s

theorem stopNegation_bounds (s : State) : KeepsBounds s (stopNegation s) := by
  unfold stopNegation
  split
  · exact (reach_bounds ..).trans (stopChanges_bounds _)
  all_goals exact .refl s

/-! ### The receiver (R106) -/

/-- A frame that begins with fewer than 2 frames queued is received, and another is an overrun; so a frame
being received leaves room for itself. -/
theorem characterComplete_bounds (k : StationId) (c : SampledChar) (s : State) :
    KeepsBounds s (characterComplete k c s) := by
  unfold characterComplete
  simp only []
  split
  · exact .refl s
  · split
    · rename_i f hf
      refine setLink_bounds s k fun h => ⟨h.1, fun g hg hm => h.2 f hf ?_⟩
      rw [← Option.some.inj hg] at hm
      exact hm
    · split
      · rename_i hlt
        exact setLink_bounds s k fun h => ⟨h.1, fun _ _ _ => Nat.le_of_lt_succ hlt⟩
      · rename_i hlt
        have hover : ∀ b taint, (firstChar s.links[k] b taint s.now).mode = .overrun := fun b taint => by
          rw [firstChar, if_neg hlt]
        refine .trans ?_ (setCounters_bounds ..)
        refine setLink_bounds s k fun h => ⟨h.1, fun g hg hm => ?_⟩
        rw [← Option.some.inj hg, hover] at hm
        cases hm

theorem lineReturnedToMark_bounds (k : StationId) (s : State) :
    KeepsBounds s (lineReturnedToMark k s) := setLink_same_bounds s k ⟨rfl, rfl⟩

/-- A link on which no frame is being received has room when its queue holds at most 2 frames. -/
theorem linkHasRoom_idle {l : Link} (hq : l.queue.length ≤ 2) (hr : l.rx = none) : LinkHasRoom l :=
  ⟨hq, fun _ hf => nomatch hr.symm.trans hf⟩

/-- The frame received takes the room that was kept for it. -/
theorem frameEnd_bounds (k : StationId) (s : State) : KeepsBounds s (frameEnd k s) := by
  have hend : ∀ n, KeepsBounds s ((s.reach n).setLink k { s.links[k] with rx := none }) := fun n =>
    (reach_bounds ..).trans (setLink_bounds _ k fun h => linkHasRoom_idle h.1 rfl)
  unfold frameEnd
  simp only []
  split
  · exact .refl s
  · rename_i f hf
    split
    · rename_i hm
      split
      · refine (reach_bounds ..).trans (setLink_bounds _ k fun h => linkHasRoom_idle ?_ rfl)
        have hroom : s.links[k].queue.length ≤ 1 := h.2 f hf hm
        simpa using hroom
      · exact (hend _).trans (setCounters_bounds ..)
    · exact hend _
    · exact hend _

/-! ### Frames taken (R107) -/

theorem popFrame_bounds (s : State) (k : StationId) : KeepsBounds s (s.popFrame k) :=
  setLink_bounds s k fun h => by
    have hlen : s.links[k].queue.tail.length ≤ s.links[k].queue.length := by simp
    exact ⟨hlen.trans h.1, fun f hf hm => hlen.trans (h.2 f hf hm)⟩

theorem takeFrame_bounds (s : State) (k : StationId) {f : State → State}
    (hf : ∀ t, KeepsBounds t (f t)) : KeepsBounds s (s.takeFrame k f) := by
  unfold State.takeFrame
  split
  · exact (popFrame_bounds ..).trans (setCounters_bounds ..)
  · exact (popFrame_bounds ..).trans (hf _)

theorem accTaken_bounds (k : StationId) (q : Seq) (s : State) : KeepsBounds s (accTaken k q s) := by
  unfold accTaken
  split
  · exact ((setStation_bounds s k (by exact id)).trans (setLink_same_bounds _ k (by exact ⟨rfl, rfl⟩))).trans
      (weighDrain_bounds ..)
  · exact setCounters_bounds ..

theorem doneTaken_bounds (k : StationId) (q : Seq) (s : State) : KeepsBounds s (doneTaken k q s) := by
  have hl : (doneLink s.stations[k] s.links[k]).queue = s.links[k].queue
      ∧ (doneLink s.stations[k] s.links[k]).rx = s.links[k].rx := by
    unfold doneLink
    split <;> exact ⟨rfl, rfl⟩
  unfold doneTaken
  simp only []
  split
  · exact (((setStation_bounds s k (by exact id)).trans (setLink_same_bounds _ k (by exact hl))).trans
      (setGate_bounds _ (completed_length_le ..))).trans (weighDrain_bounds ..)
  · exact setCounters_bounds ..

theorem retryDecision_bounds (k : StationId) (s : State) : KeepsBounds s (retryDecision k s) := by
  unfold retryDecision
  simp only []
  split
  · exact setLink_same_bounds s k ⟨rfl, rfl⟩
  · exact ((setLink_same_bounds s k (by exact ⟨rfl, rfl⟩)).trans (requestFault_bounds ..)).trans
      (weighDrain_bounds ..)

theorem nakCheckTaken_bounds (k : StationId) (q : Seq) (s : State) :
    KeepsBounds s (nakCheckTaken k q s) := by
  unfold nakCheckTaken
  split
  · exact retryDecision_bounds ..
  · exact setCounters_bounds ..

theorem nakFullTaken_bounds (k : StationId) (q : Seq) (s : State) :
    KeepsBounds s (nakFullTaken k q s) := by
  unfold nakFullTaken
  split
  · exact setLink_same_bounds s k ⟨rfl, rfl⟩
  · exact setCounters_bounds ..

theorem nakTravelTaken_bounds (k : StationId) (q : Seq) (s : State) :
    KeepsBounds s (nakTravelTaken k q s) := by
  unfold nakTravelTaken
  split
  · exact (requestFault_bounds ..).trans (weighDrain_bounds ..)
  · exact setCounters_bounds ..

theorem accFrame_bounds (k : StationId) (s : State) : KeepsBounds s (accFrame k s) := by
  unfold accFrame
  split
  · exact takeFrame_bounds s k (accTaken_bounds k _)
  all_goals exact .refl s

theorem doneFrame_bounds (k : StationId) (s : State) : KeepsBounds s (doneFrame k s) := by
  unfold doneFrame
  split
  · exact takeFrame_bounds s k (doneTaken_bounds k _)
  all_goals exact .refl s

theorem nakCheck_bounds (k : StationId) (s : State) : KeepsBounds s (nakCheck k s) := by
  unfold nakCheck
  split
  · split
    · exact takeFrame_bounds s k (nakCheckTaken_bounds k _)
    · exact .refl s
  all_goals exact .refl s

theorem nakFull_bounds (k : StationId) (s : State) : KeepsBounds s (nakFull k s) := by
  unfold nakFull
  split
  · split
    · exact takeFrame_bounds s k (nakFullTaken_bounds k _)
    · exact .refl s
  all_goals exact .refl s

theorem nakTravel_bounds (k : StationId) (s : State) : KeepsBounds s (nakTravel k s) := by
  unfold nakTravel
  split
  · split
    · exact .refl s
    · exact takeFrame_bounds s k (nakTravelTaken_bounds k _)
  all_goals exact .refl s

theorem fltFrame_bounds (k : StationId) (s : State) : KeepsBounds s (fltFrame k s) := by
  unfold fltFrame
  split
  · exact takeFrame_bounds s k fun t => (requestFault_bounds t k _).trans (weighDrain_bounds ..)
  all_goals exact .refl s

/-! ### The transmitter -/

theorem ackTimerExpiry_bounds (k : StationId) (s : State) : KeepsBounds s (ackTimerExpiry k s) := by
  unfold ackTimerExpiry
  split
  · exact (reach_bounds ..).trans (retryDecision_bounds ..)
  · exact .refl s

theorem beginTx_bounds (s : State) (k : StationId) (kind : TxKind) (bytes : List Byte) :
    KeepsBounds s (s.beginTx k kind bytes) :=
  (reach_bounds ..).trans (setLink_same_bounds _ k (by exact ⟨rfl, rfl⟩))

theorem haltBegin_bounds (k : StationId) (s : State) : KeepsBounds s (haltBegin k s) := by
  unfold haltBegin
  split
  · exact beginTx_bounds ..
  all_goals exact .refl s

theorem goBegin_bounds (k : StationId) (s : State) : KeepsBounds s (goBegin k s) := by
  unfold goBegin
  split
  · split
    · exact (beginTx_bounds ..).trans (setLink_same_bounds _ k (by exact ⟨rfl, rfl⟩))
    · exact .refl s
  all_goals exact .refl s

theorem segBegin_bounds (k : StationId) (s : State) : KeepsBounds s (segBegin k s) := by
  unfold segBegin
  split
  · split
    · exact beginTx_bounds ..
    · exact .refl s
  all_goals exact .refl s

theorem resendBegin_bounds (k : StationId) (s : State) : KeepsBounds s (resendBegin k s) := by
  unfold resendBegin
  simp only []
  split
  · split
    · exact ((beginTx_bounds ..).trans (setLink_same_bounds _ k (by exact ⟨rfl, rfl⟩))).trans
        (setCounters_bounds ..)
    · exact .refl s
  all_goals exact .refl s

theorem frameEffect_bounds (k : StationId) (kind : TxKind) (s : State) :
    KeepsBounds s (frameEffect k kind s) := by
  unfold frameEffect
  simp only []
  split
  · exact setLink_same_bounds s k ⟨rfl, rfl⟩
  · exact .refl s
  · split
    · exact setLink_same_bounds s k ⟨rfl, rfl⟩
    · exact .refl s
  · split
    · exact setLink_same_bounds s k ⟨rfl, rfl⟩
    · exact .refl s

theorem endResetWork_bounds (k : StationId) (s : State) : KeepsBounds s (endResetWork k s) := by
  unfold endResetWork
  split
  · exact setLink_same_bounds s k ⟨rfl, rfl⟩
  · exact .refl s

theorem frameTransmitEnd_bounds (k : StationId) (s : State) :
    KeepsBounds s (frameTransmitEnd k s) := by
  unfold frameTransmitEnd
  split
  · exact (((reach_bounds ..).trans (setLink_same_bounds _ k (by exact ⟨rfl, rfl⟩))).trans
      (frameEffect_bounds ..)).trans (endResetWork_bounds ..)
  · exact .refl s

theorem readyChange_bounds (k : StationId) (a : Bool) (s : State) :
    KeepsBounds s (readyChange k a s) := setLink_same_bounds s k ⟨rfl, rfl⟩

/-! ### Job commands (R21) -/

theorem recSync_zeroRecord : recSync zeroRecord = false := by decide

/-- An emptied assembler holds no SYNC record. -/
theorem emptyHolders_bounds (s : State) {j : Job}
    (hs : s.job.slots ≤ 16384 → j.slots ≤ 16384)
    (hj : j.holders = zeroRecord) : KeepsBounds s (s.setJob j) :=
  setJob_bounds s hs fun h => by
    rw [hj, recSync_zeroRecord] at h
    cases h

theorem startOpen_bounds (w : Word) (s : State) : KeepsBounds s (startOpen w s) := by
  unfold startOpen
  split
  · exact completeJob_bounds ..
  · exact setJob_bounds s id id

theorem startClose_bounds (s : State) : KeepsBounds s (startClose s) := by
  unfold startClose
  split
  · exact (emptyHolders_bounds s (by exact id) (by exact rfl)).trans (completeJob_bounds ..)
  · exact completeJob_bounds ..
  · exact completeJob_bounds ..

theorem startJobCommand_bounds (w : Word) (s : State) : KeepsBounds s (startJobCommand w s) := by
  unfold startJobCommand
  split
  · exact .refl s
  · exact startOpen_bounds ..
  · exact startClose_bounds ..
  · exact completeJob_bounds ..

/-- A window of size code n holds 16 × 2^n records. -/
theorem slotCount_le {d : Descriptor} {n : Nat} (h : descSizeCode d.w0 ≤ n) :
    slotCount d ≤ 16 * 2 ^ n := by
  have hp : 2 ^ descSizeCode d.w0 ≤ 2 ^ n := Nat.pow_le_pow_right (by decide) h
  unfold slotCount windowSize
  omega

theorem journalAccepted_slots {page : Word} {d : Descriptor} (h : journalAccepted page d = true) :
    slotCount d ≤ 16384 := by
  have hn : descSizeCode d.w0 ≤ 10 := by
    simp only [journalAccepted, Bool.and_eq_true, decide_eq_true_eq] at h
    omega
  exact slotCount_le hn

theorem ringAccepted_slots {page : Word} {k : StationId} {d : Descriptor}
    (h : ringAccepted page k d = true) : slotCount d ≤ 1024 := by
  have hn : descSizeCode d.w0 ≤ 6 := by
    simp only [ringAccepted, Bool.and_eq_true, decide_eq_true_eq] at h
    omega
  exact slotCount_le hn

theorem completeOpen_bounds (index : BitVec 5) (start : Seq) (ans : ReadAnswer 4) (s : State) :
    KeepsBounds s (completeOpen index start ans s) := by
  unfold completeOpen
  split
  · exact (logError_bounds ..).trans (completeJob_bounds ..)
  · split
    · exact completeJob_bounds ..
    · split
      · rename_i h
        exact (emptyHolders_bounds s (fun _ => journalAccepted_slots h) (by exact rfl)).trans
          (completeJob_bounds ..)
      · exact completeJob_bounds ..

theorem openComplete_bounds (ans : ReadAnswer 4) (s : State) : KeepsBounds s (openComplete ans s) := by
  unfold openComplete
  split
  · exact (portAnswered_bounds s).trans (completeOpen_bounds ..)
  · exact portAnswered_bounds s
  · exact .refl s

/-! ### Station commands (R48) -/

theorem startAttach_bounds (k : StationId) (w : Word) (s : State) :
    KeepsBounds s (startAttach k w s) := by
  unfold startAttach
  split
  · exact completeStation_bounds ..
  · split
    · exact completeStation_bounds ..
    · exact setStation_bounds s k id

theorem startDetach_bounds (k : StationId) (s : State) : KeepsBounds s (startDetach k s) := by
  unfold startDetach
  split
  · exact (detachFeed_bounds ..).trans (completeStation_bounds ..)
  · exact (detachFeed_bounds ..).trans (completeStation_bounds ..)
  all_goals exact completeStation_bounds ..

theorem startReattach_bounds (k : StationId) (s : State) : KeepsBounds s (startReattach k s) := by
  unfold startReattach
  split
  · exact ((setStation_bounds s k (by exact id)).trans (tellGate_bounds ..)).trans (completeStation_bounds ..)
  · exact completeStation_bounds ..

theorem startHold_bounds (k : StationId) (s : State) : KeepsBounds s (startHold k s) := by
  unfold startHold
  split
  · exact ((requestHeld_bounds ..).trans (weighDrain_bounds ..)).trans (completeStation_bounds ..)
  all_goals exact completeStation_bounds ..

theorem startResume_bounds (k : StationId) (s : State) : KeepsBounds s (startResume k s) := by
  unfold startResume
  split
  · exact ((setStation_bounds s k (by exact id)).trans (setLink_same_bounds _ k (by exact ⟨rfl, rfl⟩))).trans
      (completeStation_bounds ..)
  · exact completeStation_bounds ..

theorem startClear_bounds (k : StationId) (s : State) : KeepsBounds s (startClear k s) := by
  unfold startClear
  split
  · exact (((enterDrive_bounds ..).trans (oweEvent_bounds ..)).trans (weighDrain_bounds ..)).trans
      (completeStation_bounds ..)
  all_goals exact completeStation_bounds ..

theorem finishRelease_bounds (k : StationId) (s : State) : KeepsBounds s (finishRelease k s) :=
  (((((setLink_same_bounds s k (by exact ⟨rfl, rfl⟩)).trans
    (setStation_bounds _ k fun _ => Nat.zero_le _)).trans (overtake_bounds ..)).trans
    (tellGate_bounds ..)).trans (discardQueue_bounds ..)).trans (completeStation_bounds ..)

theorem startRelease_bounds (k : StationId) (s : State) : KeepsBounds s (startRelease k s) := by
  have hheld : KeepsBounds s ((s.requestHeld k .operator).weighDrain k) :=
    (requestHeld_bounds ..).trans (weighDrain_bounds ..)
  unfold startRelease
  simp only []
  split
  · exact completeStation_bounds ..
  · split
    · exact hheld.trans (finishRelease_bounds ..)
    · exact hheld.trans (setStation_bounds _ k (by exact id))

theorem startStationCommand_bounds (k : StationId) (w : Word) (s : State) :
    KeepsBounds s (startStationCommand k w s) := by
  unfold startStationCommand
  split
  · exact .refl s
  · exact startAttach_bounds ..
  · exact startDetach_bounds ..
  · exact startReattach_bounds ..
  · exact startHold_bounds ..
  · exact startResume_bounds ..
  · exact startClear_bounds ..
  · exact startRelease_bounds ..
  · exact completeStation_bounds ..

/-- An ATTACH is OK only with a ring that its descriptor test accepts. -/
theorem attachResult_ok {k : StationId} {q : Seq} {v : Vector Word 4} {s : State}
    (h : attachResult k q (.ok v) s = .ok) : ringAccepted (pageBase s) k (descOf v) = true := by
  by_contra hn
  have hno : attachResult k q (.ok v) s = .noRing := if_neg hn
  rw [hno] at h
  cases h

theorem completeAttach_bounds (k : StationId) (index : BitVec 5) (q : Seq) (ans : ReadAnswer 4)
    (s : State) : KeepsBounds s (completeAttach k index q ans s) := by
  have hq : KeepsBounds s (s.discardQueue k) := discardQueue_bounds ..
  unfold completeAttach
  split
  · exact (hq.trans (logError_bounds ..)).trans (completeStation_bounds ..)
  · split
    · rename_i h
      exact ((hq.trans (setStation_bounds _ k fun _ => ringAccepted_slots (attachResult_ok h))).trans
        (enterDrive_bounds ..)).trans (completeStation_bounds ..)
    · exact hq.trans (completeStation_bounds ..)

theorem attachComplete_bounds (ans : ReadAnswer 4) (s : State) :
    KeepsBounds s (attachComplete ans s) := by
  unfold attachComplete
  split
  · split
    · exact (portAnswered_bounds s).trans (completeAttach_bounds ..)
    · exact portAnswered_bounds s
    · exact portAnswered_bounds s
  all_goals exact .refl s

theorem releaseComplete_bounds (k : StationId) (s : State) : KeepsBounds s (releaseComplete k s) := by
  unfold releaseComplete
  split
  · exact finishRelease_bounds ..
  · exact .refl s

end Sys2Proof.Machine
end

section
/-! The journal, the replay engine, the memory port, start-up and the processor port keep the bounds, and
so does every step. -/

namespace Sys2Proof.Machine

/-! ### A record handed to the journal (R34 to R38) -/

/-- While no commit is under way the gate's bound does not speak of the holders. -/
theorem setJob_idle_bounds (s : State) {j : Job} (hc : committing s = false)
    (hs : s.job.slots ≤ 16384 → j.slots ≤ 16384) :
    KeepsBounds s (s.setJob j) where
  queues := id
  gateList h := ⟨h.1, fun hcj => absurd (hc.symm.trans hcj) Bool.false_ne_true⟩
  bits := id
  hold := id
  sizes h := ⟨hs h.1, h.2⟩

theorem loseFeed_length_le (s : State) (k : StationId) (r : LossReason) :
    (s.loseFeed k r).gate.entries.length ≤ s.gate.entries.length := by
  by_cases hd : s.stations[k].feed = .detached
  · rw [loseFeed_detached r hd]
    exact told_length_le ..
  · by_cases hc : s.stations[k].feed = .catchup
    · rw [loseFeed_catchup r hc]
      exact told_length_le ..
    · rw [loseFeed_other r hd hc]

theorem detachFeed_length_le (s : State) (k : StationId) :
    (s.detachFeed k).gate.entries.length ≤ s.gate.entries.length := by
  by_cases hl : s.stations[k].feed = .live
  · rw [detachFeed_live hl]
    exact told_length_le ..
  · by_cases hc : s.stations[k].feed = .catchup
    · rw [detachFeed_catchup hc]
      exact told_length_le ..
    · rw [detachFeed_other hl hc]

/-- An act of the apply step on one station: it keeps the bounds and makes the gate list no longer. -/
def GateNoLonger (f : State → StationId → State) : Prop :=
  ∀ s k, KeepsBounds s (f s k) ∧ (f s k).gate.entries.length ≤ s.gate.entries.length

theorem moveOverwritten_noLonger : GateNoLonger State.moveOverwritten := by
  intro s k
  unfold State.moveOverwritten
  split
  · exact ⟨loseFeed_bounds .., loseFeed_length_le ..⟩
  · exact ⟨.refl s, Nat.le_refl _⟩

theorem moveLagging_noLonger : GateNoLonger State.moveLagging := by
  intro s k
  unfold State.moveLagging
  split
  · exact ⟨detachFeed_bounds .., detachFeed_length_le ..⟩
  · exact ⟨.refl s, Nat.le_refl _⟩

theorem GateNoLonger.foldl {f : State → StationId → State} (h : GateNoLonger f) :
    ∀ (l : List StationId) (s : State),
      (l.foldl f s).gate.entries.length ≤ s.gate.entries.length
  | [], _ => Nat.le_refl _
  | k :: l, s => (h.foldl l (f s k)).trans (h s k).2

/-- A commit begins from a state with no more gate entries, and with room for one where its record has
SYNC. -/
theorem KeepsBounds.commitBegun {s u : State} (h : KeepsBounds s u) (p : ProcTxn)
    (fanOut : List StationId) (hlen : u.gate.entries.length ≤ s.gate.entries.length)
    (hroom : recSync u.job.holders = true → s.gate.entries.length ≤ 3) :
    KeepsBounds s (u.startWork p (.journalWrite fanOut)) where
  queues := h.queues
  gateList hs := ⟨hlen.trans hs.1, fun _ hr => hlen.trans (hroom hr)⟩
  bits := h.bits
  hold := h.hold
  sizes := h.sizes

/-- The capacity checks leave room in the gate list for the entry of a SYNC record (R36). -/
theorem startApply_bounds (p : ProcTxn) {s : State} (hc : committing s = false)
    (h : ¬capacityFault s = true) : KeepsBounds s (startApply p s) := by
  have hflag : KeepsBounds s (s.setJob { s.job with inFlight := true }) := setJob_idle_bounds s hc id
  unfold startApply
  simp only []
  generalize hf : s.setJob { s.job with inFlight := true } = f at hflag
  have hover := foldl_bounds (fun t k => (moveOverwritten_noLonger t k).1) stationOrder f
  have hlen1 := moveOverwritten_noLonger.foldl stationOrder f
  have hjob1 := (overwrittenFold_moves f).job
  generalize stationOrder.foldl State.moveOverwritten f = v at *
  have hlag := foldl_bounds (fun t k => (moveLagging_noLonger t k).1) stationOrder v
  have hlen2 := moveLagging_noLonger.foldl stationOrder v
  have hjob2 := (laggingFold_moves v).job
  generalize stationOrder.foldl State.moveLagging v = u at *
  subst hf
  refine ((hflag.trans hover).trans hlag).commitBegun p _ (hlen2.trans hlen1) fun hr => ?_
  rw [hjob2, hjob1] at hr
  by_contra h4
  exact h ((capacityFault_iff s).mpr (.inl ⟨hr, Nat.lt_of_not_le h4⟩))

theorem attemptCommit_bounds (p : ProcTxn) {s : State} (hc : committing s = false) :
    KeepsBounds s (attemptCommit p s) := by
  unfold attemptCommit
  split
  · exact ((emptyHolders_bounds s (by exact id) (by exact rfl)).trans (mark_bounds ..)).trans (refuse_bounds ..)
  · split
    · exact answer_bounds ..
    · rename_i h
      exact startApply_bounds p hc h

theorem storeWords_slots (j : Job) (n : Nat) (ws : List WriteWord) :
    (storeWords j n ws).slots = j.slots := by
  rw [storeWords_frame]

theorem journalWrite_bounds (t : WriteTxn) {s : State} (hc : committing s = false) :
    KeepsBounds s (journalWrite t s) := by
  have hstore : KeepsBounds s (s.setJob (storedJob s t)) :=
    setJob_idle_bounds s hc (storeWords_slots s.job _ (txnWords t)).le.trans
  unfold journalWrite
  simp only []
  split
  · exact refuse_bounds ..
  · split
    · exact refuse_bounds ..
    · split
      · split
        · exact hstore.trans (attemptCommit_bounds _ hc)
        · exact hstore.trans (answer_bounds ..)
      · split
        · exact refuse_bounds ..
        · exact refuse_bounds ..

/-! ### The commit's answers (R39 to R42) -/

theorem committing_of_proc {s t : State} (h : t.proc = s.proc) : committing t = committing s := by
  unfold committing toPost
  rw [h]

theorem committing_of_idle {s : State} (h : s.proc.current = none) : committing s = false := by
  unfold committing toPost
  rw [h]
  rfl

theorem joinAll_bounds (s : State) : KeepsBounds s (joinAll s) := foldl_bounds joinLive_bounds _ s

/-- A commit's end takes the room that its begin found (R41). -/
theorem commitEnd_bounds {s : State} (hc : committing s = true) : KeepsBounds s (commitEnd s) := by
  have hins : ∀ g, KeepsBounds (s.setGate g) (oweEnd (s.setGate g)) := fun g => by
    unfold oweEnd
    split
    · exact owe_bounds _ _ (by unfold named; decide)
    · exact .refl _
  have hrest : ∃ g, KeepsBounds (s.setGate g) (commitEnd s) := by
    unfold commitEnd insertSync
    split
    · exact ⟨_, (((hins _).trans (emptyHolders_bounds _ (by exact id) (by exact rfl))).trans (joinAll_bounds _)).trans
        (answer_bounds ..)⟩
    · exact ⟨s.gate, (((hins s.gate).trans (emptyHolders_bounds _ (by exact id) (by exact rfl))).trans (joinAll_bounds _)).trans
        (answer_bounds ..)⟩
  obtain ⟨-, hproc, -, hkeep, hsync, -⟩ := commitEnd_spec s
  obtain ⟨g, hrest⟩ := hrest
  exact {
    queues := hrest.queues
    gateList := fun hs => by
      have hidle : committing (commitEnd s) = false := committing_of_idle (by rw [hproc])
      refine ⟨?_, fun h => absurd (hidle.symm.trans h) Bool.false_ne_true⟩
      cases hr : recSync s.job.holders with
      | false =>
        rw [hkeep hr]
        exact hs.1
      | true =>
        obtain ⟨-, d, -, he⟩ := hsync hr
        rw [he]
        refine (releaseEntries_length_le ..).trans ?_
        rw [List.length_append]
        exact Nat.succ_le_succ (hs.2 hc hr)
    bits := hrest.bits
    hold := hrest.hold
    sizes := hrest.sizes }

theorem commitFail_bounds (addr : Word) (s : State) : KeepsBounds s (commitFail addr s) :=
  (((logError_bounds ..).trans (emptyHolders_bounds _ (by exact id) (by exact rfl))).trans (joinAll_bounds _)).trans
    (answer_bounds ..)

theorem travelFault_bounds (s : State) (k : StationId) : KeepsBounds s (s.travelFault k) :=
  ((requestFault_bounds ..).trans (detachFeed_bounds ..)).trans (weighDrain_bounds ..)

theorem travelFault_proc (s : State) (k : StationId) : (s.travelFault k).proc = s.proc := by
  simp [State.travelFault]

theorem commitNext_bounds (p : ProcTxn) : ∀ (l : List StationId) {s : State}, committing s = true →
    KeepsBounds s (commitNext p l s)
  | [], _, hc => commitEnd_bounds hc
  | k :: l, s, hc => by
    unfold commitNext
    split
    · split
      · exact (travelFault_bounds s k).trans
          (commitNext_bounds p l ((committing_of_proc (travelFault_proc s k)).trans hc))
      · exact startWork_bounds _ _ _ fun _ => hc
    · exact commitNext_bounds p l hc

theorem journalWriteAnswer_bounds (ans : WriteAnswer) (s : State) :
    KeepsBounds s (journalWriteAnswer ans s) := by
  unfold journalWriteAnswer
  split
  · rename_i p fanOut _ hcur
    have hc : committing s = true := by
      unfold committing toPost
      rw [hcur]
      rfl
    cases ans with
    | ok => exact (portAnswered_bounds s).trans (commitNext_bounds p fanOut hc)
    | fault => exact (portAnswered_bounds s).trans (commitFail_bounds ..)
  all_goals exact .refl s

theorem postOk_bounds (k : StationId) (copy : Record) (s : State) :
    KeepsBounds s (postOk k copy s) := by
  unfold postOk
  split
  · exact ((setStation_bounds s k (by exact id)).trans (countClamp_bounds ..)).trans (weighDrain_bounds ..)
  · exact .refl s

theorem postOk_proc (k : StationId) (copy : Record) (s : State) :
    (postOk k copy s).proc = s.proc := by
  unfold postOk
  split
  · simp [State.advancePost]
  · rfl

theorem postFault_bounds (k : StationId) (addr : Word) (copy : Record) (s : State) :
    KeepsBounds s (postFault k addr copy s) :=
  (((logError_bounds ..).trans (requestFault_bounds ..)).trans (detachFeed_bounds ..)).trans
    (weighDrain_bounds ..)

theorem postFault_proc (k : StationId) (addr : Word) (copy : Record) (s : State) :
    (postFault k addr copy s).proc = s.proc := by
  simp [postFault]

theorem postWriteAnswer_bounds (ans : WriteAnswer) (s : State) :
    KeepsBounds s (postWriteAnswer ans s) := by
  unfold postWriteAnswer
  split
  · rename_i p k addr copy rest _ hcur
    have hc : committing s = true := by
      unfold committing toPost
      rw [hcur]
      rfl
    cases ans with
    | ok =>
      exact ((portAnswered_bounds s).trans (postOk_bounds ..)).trans
        (commitNext_bounds p rest ((committing_of_proc (postOk_proc ..)).trans hc))
    | fault =>
      exact ((portAnswered_bounds s).trans (postFault_bounds ..)).trans
        (commitNext_bounds p rest ((committing_of_proc (postFault_proc ..)).trans hc))
  all_goals exact .refl s

/-! ### The memory port (R177) -/

/-- A transaction goes onto a port that no sequence holds, or follows one of its own requester. -/
theorem carry_bounds (s : State) (r : Requester) (t : MemTxn)
    (h : s.port.hold = none ∨ inFlightFor s r = true) : KeepsBounds s (s.carry r t) where
  queues := id
  gateList := id
  bits := id
  hold hs := by
    have hself : inFlightFor (s.carry r t) r = true := inFlightFor_eq rfl
    intro holder hh
    rcases h with hn | hf
    · exact absurd (hn.symm.trans hh) (by simp)
    · obtain ⟨t1, h1⟩ := inFlightFor_some hf
      obtain ⟨t2, h2⟩ := inFlightFor_some (hs holder hh)
      obtain ⟨hr, -⟩ := InFlight.mk.inj (Option.some.inj (h1.symm.trans h2))
      rw [← hr]
      exact hself
  sizes := id

theorem replayTurnGrant_bounds (s : State) : KeepsBounds s (replayTurnGrant s) := by
  unfold replayTurnGrant
  split
  · exact ⟨id, id, id, id, id⟩
  all_goals exact .refl s

theorem turnCopy_bounds (t : ReplayTurn) (copy : Record) {s : State}
    (h : inFlightFor s .replay = true) : KeepsBounds s (turnCopy t copy s) := by
  have hturn : KeepsBounds s
      ((s.setStation t.station { s.stations[t.station] with post := t.seq + 1#16 }).setTurn
        (some { t with copy := some copy })) := (setStation_bounds s t.station (by exact id)).trans (setTurn_bounds ..)
  exact (hturn.trans (carry_bounds _ .replay (turnWrite t copy).txn (.inr h))).trans
    (weighDrain_bounds ..)

theorem turnEnded_bounds (s : State) : KeepsBounds s (s.portAnswered.setTurn none) :=
  (portAnswered_bounds s).trans (setTurn_bounds ..)

theorem turnOutcome_bounds (t : ReplayTurn) (ans : ReadAnswer 8) {s : State}
    (h : inFlightFor s .replay = true) : KeepsBounds s (turnOutcome t ans s) := by
  have hend := turnEnded_bounds s
  unfold turnOutcome
  simp only []
  split
  · exact (hend.trans (logError_bounds ..)).trans (loseFeed_bounds ..)
  · split
    · split
      · exact hend.trans (travelFault_bounds ..)
      · exact turnCopy_bounds t _ h
    · exact hend.trans (loseFeed_bounds ..)

theorem replayReadAnswer_bounds (ans : ReadAnswer 8) (s : State) :
    KeepsBounds s (replayReadAnswer ans s) := by
  unfold replayReadAnswer
  split
  · rename_i t hf _
    split
    · exact .refl s
    · split
      · exact turnEnded_bounds s
      · exact turnOutcome_bounds t ans hf
  all_goals exact .refl s

theorem turnWritten_bounds (t : ReplayTurn) (copy : Record) (s : State) :
    KeepsBounds s (turnWritten t copy s) := by
  unfold turnWritten
  split
  · exact .refl s
  · exact (countClamp_bounds ..).trans (joinLive_bounds ..)

theorem replayWriteAnswer_bounds (ans : WriteAnswer) (s : State) :
    KeepsBounds s (replayWriteAnswer ans s) := by
  have hend := turnEnded_bounds s
  unfold replayWriteAnswer
  split
  · split
    · exact .refl s
    · cases ans with
      | ok => exact hend.trans (turnWritten_bounds ..)
      | fault => exact (hend.trans (logError_bounds ..)).trans (loseFeed_bounds ..)
  all_goals exact .refl s

/-! ### The status writer (R164 to R166) -/

/-- The write begun holds the port only for itself, and what it owes was owed to its record. -/
theorem beginRecord_bounds (r : RecordId) (s : State) : KeepsBounds s (beginRecord r s) where
  queues := id
  gateList := id
  bits hs := by
    obtain ⟨hp, ho, -⟩ := hs
    refine ⟨hp, fun q => ?_, fun w hw => ?_⟩
    · show named ((s.writer.owed.set r 0#32).get q)
      by_cases hq : q = r
      · rw [hq, Owed.get_set_self]
        exact named_zero
      · rw [Owed.get_set_ne _ _ _ _ hq]
        exact ho q
    · rw [← Option.some.inj hw]
      exact ho r
  hold _ := by
    have hself : inFlightFor (beginRecord r s) .status = true := inFlightFor_eq rfl
    have hh : (beginRecord r s).port.hold = if (recordUpper s r).isSome then some .status else none := by
      unfold beginRecord
      simp only [Option.isSome_map]
      rfl
    intro h e
    rw [hh] at e
    split at e
    · rw [← Option.some.inj e]
      exact hself
    · cases e
  sizes := id

theorem grantStatus_bounds (s : State) : KeepsBounds s (grantStatus s) := by
  unfold grantStatus
  split
  · refine .trans ?_ (beginRecord_bounds ..)
    exact ⟨id, id, id, id, id⟩
  · exact .refl s

theorem beginPlain_bounds (n : Nat) (r : Record) {s : State} (h : s.port.hold = none) :
    KeepsBounds s (beginPlain n r s) := by
  have hw : KeepsBounds s (s.setWriter { s.writer with write := some ⟨none, 0#32, none⟩ }) :=
    ⟨id, id, fun hs => ⟨hs.1, hs.2.1, fun w e => by
      rw [← Option.some.inj e]
      exact named_zero⟩, id, id⟩
  exact hw.trans (carry_bounds _ _ _ (.inl h))

theorem named_passOwed (s : State) (r : RecordId) : named (passOwed s r) := by
  unfold passOwed
  split
  · split
    · exact named_errorLoggedBit
    · exact named_zero
  · unfold named
    decide
  · exact named_zero
  · exact named_zero

theorem grantPass_bounds (i : Nat) {s : State} (h : s.port.hold = none) :
    KeepsBounds s (grantPass i s) := by
  unfold grantPass
  split
  · exact beginPlain_bounds _ _ h
  · exact beginPlain_bounds _ _ h
  · exact beginPlain_bounds _ _ h
  · exact (owe_bounds _ _ (named_passOwed ..)).trans (beginRecord_bounds ..)
  · exact beginPlain_bounds _ _ h

/-- The replay engine's journal read holds the port for the turn's ring write (R177). -/
theorem holdReplay_bounds (s : State) (t : MemTxn) :
    KeepsBounds s ((s.setPort { s.port with hold := some .replay }).carry .replay t) where
  queues := id
  gateList := id
  bits := id
  hold _ h e := by
    rw [← Option.some.inj e]
    exact inFlightFor_eq rfl
  sizes := id

theorem grantTo_bounds (r : Requester) {s : State} (h : s.port.hold = none) :
    KeepsBounds s (grantTo r s) := by
  unfold grantTo
  split
  · split
    · exact carry_bounds _ _ _ (.inl h)
    · exact .refl s
  · split
    · exact carry_bounds _ _ _ (.inl h)
    · exact .refl s
  · split
    · exact carry_bounds _ _ _ (.inl h)
    all_goals exact .refl s
  · split
    · exact grantPass_bounds _ h
    · exact grantStatus_bounds s
  · split
    · refine .trans ?_ (carry_bounds _ _ _ (.inl (by exact h)))
      exact ⟨id, id, id, id, id⟩
    · exact .refl s
  · split
    · exact holdReplay_bounds ..
    · exact .refl s

theorem arbiterGrant_bounds (s : State) : KeepsBounds s (arbiterGrant s) := by
  unfold arbiterGrant
  split
  · rename_i hfree
    have hn : s.port.hold = none := by
      simp only [portFree, Bool.and_eq_true, Option.isNone_iff_eq_none] at hfree
      exact hfree.2
    split
    · exact .trans (t := s.setPort { s.port with late := [] }) ⟨id, id, id, id, id⟩ (grantTo_bounds _ hn)
    · exact .refl s
  · exact .refl s

theorem endStatusWrite_bounds (s : State) : KeepsBounds s (endStatusWrite s) :=
  (portAnswered_bounds s).trans ⟨id, id, fun h => ⟨h.1, h.2.1, fun _ e => (nomatch e)⟩, id, id⟩

/-- A change of the writer and the log alone. -/
theorem KeepsBounds.writer {s t u : State} (h : KeepsBounds s t)
    (hf : u = { t with writer := u.writer, log := u.log })
    (hb : PendingBitsNamed s → PendingBitsNamed u) : KeepsBounds s u := by
  have hu : KeepsBounds s { t with writer := u.writer, log := u.log } :=
    { queues := h.queues, gateList := h.gateList, bits := hf ▸ hb, hold := h.hold, sizes := h.sizes }
  rwa [← hf] at hu

/-- What a status write owes is set when it has been answered OK (R165). -/
theorem statusDone_bounds {w : StatusWrite} {s : State} (hw : s.writer.write = some w) :
    KeepsBounds s (setPendingBits w.owed (endStatusWrite s)) :=
  (endStatusWrite_bounds s).writer rfl fun ⟨hpending, howed, hwrite⟩ =>
    ⟨named_or hpending (hwrite w hw), howed, fun _ e => nomatch e⟩

theorem returnOwed_bounds {w : StatusWrite} (h : named w.owed) (s : State) :
    KeepsBounds s (returnOwed w s) := by
  unfold returnOwed
  split
  · exact (owe_bounds _ _ h).trans (mark_bounds ..)
  · exact .refl s

theorem statusFault_bounds {w : StatusWrite} (t : MemTxn) {s : State}
    (hw : s.writer.write = some w) : KeepsBounds s (statusFault w t s) := by
  refine (endStatusWrite_bounds s).writer ?_ fun hs => ?_
  · unfold statusFault
    rw [logError_frame, returnOwed_frame]
  · obtain ⟨-, -, hwrite⟩ := id hs
    exact (((endStatusWrite_bounds s).trans (returnOwed_bounds (hwrite w hw) _)).trans
      (logError_bounds ..)).bits hs

theorem secondHalf_bounds {w : StatusWrite} (addr : Word) (r : Record) {s : State}
    (hw : s.writer.write = some w) (hf : inFlightFor s .status = true) :
    KeepsBounds s (secondHalf w addr r s) := by
  have hhalf : KeepsBounds s (s.setWriter { s.writer with write := some { w with upper := none } }) :=
    ⟨id, id, fun ⟨hpending, howed, hwrite⟩ => ⟨hpending, howed, fun v e => by
      rw [← Option.some.inj e]
      exact hwrite w hw⟩, id, id⟩
  exact hhalf.trans (carry_bounds _ _ _ (.inr hf))

theorem statusWriteAnswer_bounds (ans : WriteAnswer) (s : State) :
    KeepsBounds s (statusWriteAnswer ans s) := by
  unfold statusWriteAnswer
  split
  · rename_i w t _ hin
    obtain ⟨hf, hw⟩ := statusInFlight_some hin
    split
    · exact secondHalf_bounds _ _ hw (inFlightFor_eq hf)
    · exact statusDone_bounds hw
    · exact statusFault_bounds t hw
  all_goals exact .refl s

theorem passGoesOn_bounds (i : Nat) (s : State) : KeepsBounds s (passGoesOn i s) := by
  rw [passGoesOn_frame]
  exact ⟨id, id, id, id, id⟩

theorem initWriteAnswer_bounds (ans : WriteAnswer) (s : State) :
    KeepsBounds s (initWriteAnswer ans s) := by
  unfold initWriteAnswer
  split
  · rename_i i w t _ hin
    obtain ⟨hf, hw⟩ := statusInFlight_some hin
    split
    · exact (secondHalf_bounds _ _ hw (inFlightFor_eq hf)).trans (passGoesOn_bounds ..)
    · exact (statusDone_bounds hw).trans (passGoesOn_bounds ..)
    · exact (statusFault_bounds t hw).trans (passGoesOn_bounds ..)
    · exact (statusFault_bounds t hw).trans (passGoesOn_bounds ..)
  all_goals exact .refl s

/-! ### Drain reads (R112) -/

theorem spoil_bounds (k : StationId) (q : Seq) (s : State) : KeepsBounds s (spoil k q s) := by
  unfold spoil
  split
  · exact setLink_same_bounds s k ⟨rfl, rfl⟩
  · exact .refl s

theorem drainOutcome_bounds (k : StationId) (d : DrainRead) (ans : ReadAnswer 8) (s : State) :
    KeepsBounds s (drainOutcome k d ans s) := by
  unfold drainOutcome
  split
  · split
    · exact setLink_same_bounds s k ⟨rfl, rfl⟩
    · exact (requestFault_bounds ..).trans (spoil_bounds ..)
  · exact ((logError_bounds ..).trans (requestFault_bounds ..)).trans (spoil_bounds ..)

theorem drainReadAnswer_bounds (ans : ReadAnswer 8) (s : State) :
    KeepsBounds s (drainReadAnswer ans s) := by
  have hend : ∀ k, KeepsBounds s (endDrain k s) := fun k =>
    (portAnswered_bounds s).trans (setLink_same_bounds _ k (by exact ⟨rfl, rfl⟩))
  unfold drainReadAnswer
  split
  · split
    · split
      · exact (hend _).trans (weighDrain_bounds ..)
      · exact ((hend _).trans (drainOutcome_bounds ..)).trans (weighDrain_bounds ..)
    · exact .refl s
  all_goals exact .refl s

end Sys2Proof.Machine
end

section
/-! Start-up and the processor port keep the bounds, and so does every step; and the state after power-on
reset meets every invariant. -/

namespace Sys2Proof.Machine

/-! ### Power-on values -/

theorem reset_station (k : StationId) : State.reset.stations[k] = Station.reset :=
  Vector.getElem_replicate _

theorem reset_link (k : StationId) : State.reset.links[k] = Link.reset := Vector.getElem_replicate _

theorem queueHasRoom_of_empty {s : State} (h : ∀ k : StationId, s.links[k].queue = []) :
    QueueHasRoom s := fun k => by
  rw [h k]
  exact ⟨Nat.zero_le _, fun _ _ _ => Nat.zero_le _⟩

theorem gateListFits_of_empty {s : State} (h : s.gate.entries = []) : GateListFits s := by
  unfold GateListFits
  rw [h]
  exact ⟨Nat.zero_le _, fun _ _ => Nat.zero_le _⟩

theorem writerReset_owed (r : RecordId) : Writer.reset.owed.get r = 0#32 := by
  cases r with
  | summary => rfl
  | errorLog => rfl
  | job => rfl
  | station k => exact Vector.getElem_replicate _

theorem pendingBitsNamed_of_reset {s : State} (h : s.writer = Writer.reset) : PendingBitsNamed s := by
  unfold PendingBitsNamed
  rw [h]
  refine ⟨named_zero, fun r => ?_, fun w hw => nomatch hw⟩
  rw [writerReset_owed]
  exact named_zero

theorem holdCarriesHolder_of_free {s : State} (h : s.port.hold = none) : HoldCarriesHolder s :=
  fun _ hh => nomatch h.symm.trans hh

theorem sizesFit_of_reset {s : State} (hj : s.job = Job.reset)
    (hs : ∀ k : StationId, s.stations[k] = Station.reset) : SizesFit s := by
  unfold SizesFit
  rw [hj]
  refine ⟨Nat.zero_le _, fun k => ?_⟩
  rw [hs k]
  exact Nat.zero_le _

/-- A state whose blocks hold their reset values is within every bound. -/
theorem KeepsBounds.of_reset (s : State) {t : State} (hq : ∀ k : StationId, t.links[k].queue = [])
    (hg : t.gate.entries = []) (hw : t.writer = Writer.reset) (hh : t.port.hold = none)
    (hj : t.job = Job.reset) (hs : ∀ k : StationId, t.stations[k] = Station.reset) :
    KeepsBounds s t where
  queues _ := queueHasRoom_of_empty hq
  gateList _ := gateListFits_of_empty hg
  bits _ := pendingBitsNamed_of_reset hw
  hold _ := holdCarriesHolder_of_free hh
  sizes _ := sizesFit_of_reset hj hs

/-! ### Resets and start-up -/

theorem powerOnReset_bounds (s : State) : KeepsBounds s (powerOnReset s) :=
  .of_reset s (fun _ => congrArg Link.queue (mapLinks_get ..)) rfl rfl rfl rfl reset_station

theorem busReset_bounds (s : State) : KeepsBounds s (busReset s) := by
  unfold busReset
  split
  · exact .refl s
  · split
    · exact ⟨id, id, id, id, id⟩
    · exact .of_reset s (fun _ => congrArg Link.queue (mapLinks_get ..)) rfl rfl rfl rfl reset_station

theorem porstNegation_bounds (v : InputLevels) (s : State) : KeepsBounds s (porstNegation v s) := by
  unfold porstNegation
  split
  · refine ⟨fun h => (queueHasRoom_iff _).mpr fun k => ?_, id, id, id, id⟩
    show LinkHasRoom (mapLinks s.links _)[k]
    rw [mapLinks_get]
    exact h k
  · exact .refl s

theorem startPass_bounds (s : State) : KeepsBounds s (startPass s) := by
  rw [startPass_eq]
  exact ⟨id, id, id, id, id⟩

theorem busrstNegation_bounds (s : State) : KeepsBounds s (busrstNegation s) := by
  unfold busrstNegation
  split
  · split
    · exact ⟨id, id, id, id, id⟩
    · exact .trans (t := { s with busrst := false }) ⟨id, id, id, id, id⟩ (startPass_bounds _)
  · exact .refl s

theorem bootAttempt_bounds (s : State) : KeepsBounds s (bootAttempt s) := by
  unfold bootAttempt
  split
  · exact ⟨id, id, id, id, id⟩
  all_goals exact .refl s

theorem bootDone_bounds (r : Regions) (s : State) : KeepsBounds s (bootDone r s) := by
  rw [bootDone_eq]
  exact ⟨id, id, id, id, id⟩

theorem takeStraps_bounds (s : State) : KeepsBounds s (takeStraps s) := bootDone_bounds ..

theorem strapsAfterError_bounds (c : BootCause) (s : State) :
    KeepsBounds s (takeStraps (logBootBad c s)) :=
  (logError_bounds ..).trans (takeStraps_bounds _)

theorem bootBusBusyTimeout_bounds (s : State) : KeepsBounds s (bootBusBusyTimeout s) := by
  unfold bootBusBusyTimeout
  split
  · exact (reach_bounds ..).trans (strapsAfterError_bounds ..)
  all_goals exact .refl s

theorem driving_bounds (acts : List BusAct) (s : State) : KeepsBounds s (driving acts s) := ⟨id, id, id, id, id⟩

theorem withBytes_bounds (got : List Byte) (s : State) : KeepsBounds s (withBytes got s) := ⟨id, id, id, id, id⟩

theorem bootDeviceNack_bounds (s : State) : KeepsBounds s (bootDeviceNack s) := by
  unfold bootDeviceNack
  split
  · exact (driving_bounds ..).trans (takeStraps_bounds _)
  · exact .refl s

theorem bootAddressNack_bounds (s : State) : KeepsBounds s (bootAddressNack s) := by
  unfold bootAddressNack
  split
  · exact (driving_bounds ..).trans (strapsAfterError_bounds ..)
  · exact .refl s

theorem bootStretchTimeout_bounds (got : List Byte) (s : State) :
    KeepsBounds s (bootStretchTimeout got s) := by
  unfold bootStretchTimeout
  split
  · exact ((withBytes_bounds ..).trans (driving_bounds ..)).trans (strapsAfterError_bounds ..)
  · exact .refl s

theorem bootArbitrationLost_bounds (lost : LostAttempt) (s : State) :
    KeepsBounds s (bootArbitrationLost lost s) := by
  unfold bootArbitrationLost
  split
  · split
    · exact ⟨id, id, id, id, id⟩
    · exact ((withBytes_bounds ..).trans (driving_bounds ..)).trans (strapsAfterError_bounds ..)
  · exact .refl s

theorem bootReadEnd_bounds (b : Vector Byte 16) (s : State) : KeepsBounds s (bootReadEnd b s) := by
  have hread : KeepsBounds s (driving [] (withBytes b.toList s)) :=
    (withBytes_bounds ..).trans (driving_bounds ..)
  unfold bootReadEnd
  simp only []
  split
  · split
    · exact hread.trans (bootDone_bounds ..)
    · exact hread.trans (strapsAfterError_bounds ..)
  · exact .refl s

/-! ### Writes into the control page -/

theorem copyLine_bounds (k : StationId) (s : State) : KeepsBounds s (copyLine k s) := by
  unfold copyLine
  split
  · exact .refl s
  · exact setLink_same_bounds s k ⟨rfl, rfl⟩

theorem restartAckTimer_bounds (k : StationId) (s : State) : KeepsBounds s (restartAckTimer k s) := by
  unfold restartAckTimer
  split
  · exact setLink_same_bounds s k ⟨rfl, rfl⟩
  · exact .refl s

theorem setStationShadow_bounds (s : State) (k : StationId) (n : Fin 16) (v : Word) :
    KeepsBounds s (setStationShadow s k n v) := ⟨id, id, id, id, id⟩

theorem applyStationWord_bounds (k : StationId) (n : Fin 16) (v : Word) (s : State) :
    KeepsBounds s (applyStationWord k n v s) := by
  have hdue : KeepsBounds s (if n = 14 then s.breakDue k else s) := by
    split
    · exact breakDue_bounds ..
    · exact .refl s
  unfold applyStationWord
  simp only []
  generalize (if n = 14 then s.breakDue k else s) = d at hdue
  have hset := hdue.trans (setStationShadow_bounds d k n v)
  split
  · exact hset.trans (copyLine_bounds ..)
  · split
    · exact (hset.trans (restartAckTimer_bounds ..)).trans (breakDue_bounds ..)
    · split
      · exact hset.trans (startStationCommand_bounds ..)
      · exact hset

theorem acknowledge_bounds (v : Word) (s : State) : KeepsBounds s (acknowledge v s) := by
  have hclear : KeepsBounds s (s.setWriter { s.writer with
      pending := s.writer.pending &&& ~~~(v &&& s.writer.pending) }) :=
    ⟨id, id, fun h => ⟨named_and _ h.1, h.2⟩, id, id⟩
  unfold acknowledge
  simp only []
  split
  · exact hclear.trans ⟨id, id, id, id, id⟩
  · exact hclear

theorem applyJobWord_bounds (n : Fin 16) (v : Word) (s : State) :
    KeepsBounds s (applyJobWord n v s) := by
  have hset : KeepsBounds s (setJobShadow s n v) := ⟨id, id, id, id, id⟩
  unfold applyJobWord
  simp only []
  split
  · exact hset.trans (acknowledge_bounds ..)
  · split
    · exact hset.trans (startJobCommand_bounds ..)
    · exact hset

theorem applyWord_bounds (v : Word) (s : State) (a : PageWord) : KeepsBounds s (applyWord v s a) := by
  cases a with
  | table i => exact ⟨id, id, id, id, id⟩
  | station k n => exact applyStationWord_bounds ..
  | job n => exact applyJobWord_bounds ..
  | unused => exact .refl s
  | status => exact .refl s

theorem applyWords_bounds : ∀ (ws : List WriteWord) (n : Nat) (s : State),
    KeepsBounds s (applyWords n ws s)
  | [], _, s => .refl s
  | w :: ws, n, s => (applyWord_bounds w.data s (pageWord n)).trans (applyWords_bounds ws (n + 4) _)

theorem forwardTo_bounds (p : ProcTxn) (a : Word) (s : State) : KeepsBounds s (forwardTo p a s) :=
  startWork_bounds _ _ _ fun h => nomatch h

theorem pageWrite_bounds (t : WriteTxn) (s : State) : KeepsBounds s (pageWrite t s) := by
  unfold pageWrite
  simp only []
  split
  · exact refuse_bounds ..
  · exact answer_bounds ..
  · exact (applyWords_bounds ..).trans (forwardTo_bounds ..)

/-! ### The processor port and the descriptor search -/

theorem actOnPass_bounds (p : ProcTxn) (d : Descriptor) (s : State) :
    KeepsBounds s (actOnPass p d s) := by
  unfold actOnPass
  split
  · exact refuse_bounds ..
  · exact refuse_bounds ..
  · exact forwardTo_bounds ..

theorem actOnWindow_bounds (p : ProcTxn) (index : BitVec 5) (d : Descriptor) {s : State}
    (hc : committing s = false) : KeepsBounds s (actOnWindow p index d s) := by
  unfold actOnWindow
  split
  · exact actOnPass_bounds ..
  · exact forwardTo_bounds ..
  · split
    · exact journalWrite_bounds _ hc
    · exact refuse_bounds ..
  · exact forwardTo_bounds ..
  · exact refuse_bounds ..
  · exact refuse_bounds ..

theorem windowAccess_bounds (p : ProcTxn) {s : State} (hc : committing s = false) :
    KeepsBounds s (windowAccess p s) := by
  unfold windowAccess
  split
  · rename_i i e _
    exact .trans (t := { s with cache := s.cache.touch i }) ⟨id, id, id, id, id⟩ (actOnWindow_bounds _ _ _ hc)
  · exact startWork_bounds _ _ _ fun h => nomatch h

theorem routed_bounds (p : ProcTxn) {s : State} (hc : committing s = false) :
    KeepsBounds s (routed p s) := by
  unfold routed
  split
  · split
    · unfold pageAccess
      split
      · exact forwardTo_bounds ..
      · exact pageWrite_bounds ..
    · split
      · exact windowAccess_bounds p hc
      · exact forwardTo_bounds ..
  · exact forwardTo_bounds ..

/-- A presented transaction finds no commit under way, or is not taken. -/
theorem present_bounds (p : ProcTxn) (s : State) : KeepsBounds s (present p s) := by
  unfold present
  split
  · exact .refl s
  · rename_i hcur
    rw [Option.not_isSome_iff_eq_none] at hcur
    split
    · exact answer_bounds ..
    · split
      · exact refuse_bounds ..
      · exact routed_bounds p (committing_of_idle hcur)

theorem countSearch_bounds (s : State) : KeepsBounds s (countSearch s) := setJob_bounds s id id

theorem scanDecision_bounds (p : ProcTxn) (got : List (Word × Word)) (s : State) :
    KeepsBounds s (scanDecision p got s) := by
  unfold scanDecision
  split
  · exact (countSearch_bounds s).trans (refuse_bounds ..)
  · split
    · exact (countSearch_bounds s).trans (refuse_bounds ..)
    · exact startWork_bounds _ _ _ fun h => nomatch h

theorem searchFault_bounds (a : Word) (s : State) : KeepsBounds s (searchFault a s) :=
  ((countSearch_bounds s).trans (logError_bounds ..)).trans (answer_bounds ..)

theorem scanReadAnswer_bounds (ans : ReadAnswer 2) (s : State) :
    KeepsBounds s (scanReadAnswer ans s) := by
  have hfree := portAnswered_bounds s
  unfold scanReadAnswer
  split
  · cases ans with
    | fault => exact hfree.trans (searchFault_bounds ..)
    | ok v =>
      simp only []
      split
      · exact hfree.trans (startWork_bounds _ _ _ fun h => nomatch h)
      · exact hfree.trans (scanDecision_bounds ..)
  all_goals exact .refl s

theorem searchFound_bounds (p : ProcTxn) (index : BitVec 5) (d : Descriptor) {s : State}
    (hc : committing s = false) : KeepsBounds s (searchFound p index d s) :=
  (countSearch_bounds s).trans
    (.trans (t := { countSearch s with cache := (countSearch s).cache.fill ⟨index, d⟩ }) ⟨id, id, id, id, id⟩
      (actOnWindow_bounds p index d hc))

theorem detailReadAnswer_bounds (ans : ReadAnswer 2) (s : State) :
    KeepsBounds s (detailReadAnswer ans s) := by
  have hfree := portAnswered_bounds s
  unfold detailReadAnswer
  split
  · rename_i p index w0 w1 _ hcur
    have hc : committing s = false := by
      unfold committing toPost
      rw [hcur]
      rfl
    cases ans with
    | fault => exact hfree.trans (searchFault_bounds ..)
    | ok v =>
      simp only []
      split
      · exact hfree.trans (searchFound_bounds _ _ _ hc)
      · exact (hfree.trans (countSearch_bounds _)).trans (refuse_bounds ..)
  all_goals exact .refl s

theorem forwardAnswer_bounds (ans : ForwardAnswer) (s : State) :
    KeepsBounds s (forwardAnswer ans s) := by
  unfold forwardAnswer
  split
  · cases ans with
    | ok data => exact (portAnswered_bounds s).trans (answer_bounds ..)
    | fault => exact (portAnswered_bounds s).trans (refuse_bounds ..)
  all_goals exact .refl s

/-! ### Every step -/

section Rows

variable {s t : State}

/-- A row of the kind that always acts. -/
theorem goOn_bounds {u : State} (h : goOn u = .next t) (hu : KeepsBounds s u) : KeepsBounds s t := by
  obtain rfl := Host.Outcome.next.inj h
  exact hu

theorem act_bounds (f : State → State) (hf : ∀ s, KeepsBounds s (f s)) (s : State) :
    KeepsBounds s (s.act f) := by
  unfold State.act
  split
  · exact .refl s
  · exact (hf s).trans (report_bounds ..)

/-- A row that does nothing under PORST_N. -/
theorem goOn_act_bounds {f : State → State} (h : goOn (s.act f) = .next t)
    (hf : ∀ s, KeepsBounds s (f s)) : KeepsBounds s t := goOn_bounds h (act_bounds f hf s)

/-- An answer row. -/
theorem actAnswer_bounds {α : Type} {f : α → State → State} {a : Arrived α}
    (h : s.actAnswer f a = .next t) (hf : ∀ x s, KeepsBounds s (f x s)) : KeepsBounds s t := by
  rcases actAnswer_next h with rfl | ⟨late, x, -, rfl⟩
  · exact .refl _
  · exact (act_bounds (f x) (hf x) s).trans (deferred_bounds ..)

/-- A row by which the processor presents a transaction. -/
theorem presented_bounds {p : ProcTxn} (h : presented p s = .next t) : KeepsBounds s t :=
  goOn_bounds h ((present_bounds p s).trans (report_bounds ..))

end Rows

theorem exec_bounds {i : Instr} {s t : State} (h : exec i s = .next t) : KeepsBounds s t := by
  cases i with
  | powerOnReset => exact goOn_bounds h (powerOnReset_bounds s)
  | porstNegation levels => exact goOn_bounds h (porstNegation_bounds levels s)
  | busReset => exact goOn_bounds h (busReset_bounds s)
  | busrstNegation => exact goOn_bounds h (busrstNegation_bounds s)
  | bootAttempt => exact goOn_act_bounds h bootAttempt_bounds
  | bootBusBusyTimeout => exact goOn_act_bounds h bootBusBusyTimeout_bounds
  | bootDeviceNack => exact goOn_act_bounds h bootDeviceNack_bounds
  | bootAddressNack => exact goOn_act_bounds h bootAddressNack_bounds
  | bootStretchTimeout got => exact goOn_act_bounds h (bootStretchTimeout_bounds got)
  | bootArbitrationLost lost => exact goOn_act_bounds h (bootArbitrationLost_bounds lost)
  | bootReadEnd bytes => exact goOn_act_bounds h (bootReadEnd_bounds bytes)
  | initWriteAnswer ans => exact actAnswer_bounds h initWriteAnswer_bounds
  | processorRead addr more => exact presented_bounds h
  | processorWrite txn => exact presented_bounds h
  | scanReadAnswer ans => exact actAnswer_bounds h scanReadAnswer_bounds
  | detailReadAnswer ans => exact actAnswer_bounds h detailReadAnswer_bounds
  | forwardAnswer ans => exact actAnswer_bounds h forwardAnswer_bounds
  | journalWindowWrite txn => exact presented_bounds h
  | journalWriteAnswer ans => exact actAnswer_bounds h journalWriteAnswer_bounds
  | postWriteAnswer ans => exact actAnswer_bounds h postWriteAnswer_bounds
  | descriptorTableWrite txn => exact presented_bounds h
  | controlBlockWrite txn => exact presented_bounds h
  | breakFilterTimeWrite k w => exact presented_bounds h
  | breakPolarityWrite k w => exact presented_bounds h
  | ackTimeoutWrite k w => exact presented_bounds h
  | acknowledgeWrite w => exact presented_bounds h
  | interruptEnableWrite w => exact presented_bounds h
  | openJob pre spare index start => exact presented_bounds h
  | openComplete ans => exact actAnswer_bounds h openComplete_bounds
  | closeJob pre arg => exact presented_bounds h
  | jobBadCmd pre code arg => exact presented_bounds h
  | attach k pre spare start => exact presented_bounds h
  | attachComplete ans => exact actAnswer_bounds h attachComplete_bounds
  | detach k pre arg => exact presented_bounds h
  | reattach k pre arg => exact presented_bounds h
  | hold k pre arg => exact presented_bounds h
  | resume k pre arg => exact presented_bounds h
  | clear k pre arg => exact presented_bounds h
  | release k pre arg => exact presented_bounds h
  | releaseComplete k => exact goOn_act_bounds h (releaseComplete_bounds k)
  | stationBadCmd k pre code arg => exact presented_bounds h
  | replayTurnGrant => exact goOn_act_bounds h replayTurnGrant_bounds
  | replayReadAnswer ans => exact actAnswer_bounds h replayReadAnswer_bounds
  | replayWriteAnswer ans => exact actAnswer_bounds h replayWriteAnswer_bounds
  | arbiterGrant => exact goOn_act_bounds h arbiterGrant_bounds
  | statusWriteAnswer ans => exact actAnswer_bounds h statusWriteAnswer_bounds
  | drainReadAnswer ans => exact actAnswer_bounds h drainReadAnswer_bounds
  | frameEnd k => exact goOn_act_bounds h (frameEnd_bounds k)
  | accFrame k => exact goOn_act_bounds h (accFrame_bounds k)
  | doneFrame k => exact goOn_act_bounds h (doneFrame_bounds k)
  | nakCheck k => exact goOn_act_bounds h (nakCheck_bounds k)
  | nakFull k => exact goOn_act_bounds h (nakFull_bounds k)
  | nakTravel k => exact goOn_act_bounds h (nakTravel_bounds k)
  | fltFrame k => exact goOn_act_bounds h (fltFrame_bounds k)
  | ackTimerExpiry k => exact goOn_act_bounds h (ackTimerExpiry_bounds k)
  | haltBegin k => exact goOn_act_bounds h (haltBegin_bounds k)
  | goBegin k => exact goOn_act_bounds h (goBegin_bounds k)
  | segBegin k => exact goOn_act_bounds h (segBegin_bounds k)
  | resendBegin k => exact goOn_act_bounds h (resendBegin_bounds k)
  | frameTransmitEnd k => exact goOn_act_bounds h (frameTransmitEnd_bounds k)
  | readyChange k asserted => exact goOn_bounds h (readyChange_bounds k asserted s)
  | breakLineChange k level => exact goOn_act_bounds h (breakLineChange_bounds k level)
  | breakQualifiedChange k => exact goOn_act_bounds h (breakQualifiedChange_bounds k)
  | stopLineChange level => exact goOn_act_bounds h (stopLineChange_bounds level)
  | stopAssertion => exact goOn_act_bounds h stopAssertion_bounds
  | stopNegation => exact goOn_act_bounds h stopNegation_bounds
  | characterComplete k sample => exact goOn_act_bounds h (characterComplete_bounds k sample)
  | lineReturnedToMark k => exact goOn_act_bounds h (lineReturnedToMark_bounds k)

theorem step_bounds {s t : State} (h : step s = .next t) : KeepsBounds s t := by
  unfold step at h
  split at h
  · rename_i c rest _
    exact .trans (t := { s with pending := rest }) ⟨id, id, id, id, id⟩ (exec_bounds h)
  · obtain rfl := Host.Outcome.next.inj h
    exact ⟨id, id, id, id, id⟩

/-- Settles O59: the five bounds are the five parts of what every step keeps. -/
theorem stepsKeepBounds : Obligations.StepsKeepBounds :=
  ⟨fun _ _ hs h => (step_bounds h).queues hs, fun _ _ hs h => (step_bounds h).gateList hs,
    fun _ _ hs h => (step_bounds h).bits hs, fun _ _ hs h => (step_bounds h).hold hs,
    fun _ _ hs h => (step_bounds h).sizes hs⟩

/-! ### The state after power-on reset -/

theorem reset_gateHoldsMembers : GateHoldsMembers State.reset := fun k => by
  rw [reset_station]
  exact BitVec.getLsbD_zero

theorem reset_offHoldsNothing : OffHoldsNothing State.reset := fun k _ => by
  rw [reset_station, reset_link]
  exact ⟨rfl, rfl, rfl, fun _ h => (nomatch h), fun _ h => (nomatch h)⟩

theorem reset_sizesFit : SizesFit State.reset := sizesFit_of_reset rfl reset_station

theorem reset_pointersInOrder : PointersInOrder State.reset := fun k => by
  rw [reset_station]
  exact ⟨Nat.zero_le _, Nat.le_refl _⟩

theorem reset_stationsHaveJob : StationsHaveJob State.reset := by
  refine ⟨fun k hk => ?_, fun k d q hk => ?_, fun h => absurd rfl h⟩
  · rw [reset_station] at hk
    exact absurd rfl hk
  · rw [reset_station] at hk
    cases hk

theorem reset_feedsFollowFrontier : FeedsFollowFrontier State.reset := by
  refine ⟨rfl, fun _ h => (nomatch h), fun k => ?_⟩
  rw [reset_station]
  exact ⟨fun h => (nomatch h), fun _ h => (nomatch h), fun h => by rcases h with h | h <;> cases h⟩

theorem reset_linkFollowsSend : LinkFollowsSend State.reset := fun k => by
  rw [reset_link]
  exact ⟨fun _ _ h => (nomatch h), fun _ h => (nomatch h), fun _ => rfl, fun _ h => (nomatch h),
    fun _ h => (nomatch h), fun _ _ h => (nomatch h)⟩

theorem reset_gateAscends : GateAscends State.reset :=
  ⟨.nil, fun _ h => (nomatch h), fun _ h => (nomatch h), fun _ h => (nomatch h)⟩

/-- Settles O60: each invariant from the power-on values of the part that it speaks of. -/
theorem resetMeetsInvariants : Obligations.ResetMeetsInvariants := by
  refine ⟨reset_gateHoldsMembers, fun k => ?_, fun k _ => ?_, reset_offHoldsNothing,
    ⟨reset_gateHoldsMembers, reset_offHoldsNothing, reset_sizesFit, reset_pointersInOrder,
      reset_stationsHaveJob, reset_feedsFollowFrontier, fun _ h => (nomatch h), reset_linkFollowsSend,
      reset_gateAscends⟩,
    queueHasRoom_of_empty fun k => congrArg Link.queue (reset_link k), gateListFits_of_empty rfl,
    pendingBitsNamed_of_reset rfl, holdCarriesHolder_of_free rfl, reset_sizesFit⟩
  · rw [reset_station]
    exact iff_of_true rfl rfl
  · rw [reset_station, reset_link]
    exact ⟨rfl, rfl, rfl, rfl, rfl⟩

end Sys2Proof.Machine
end

section
/-! A write that reaches the journal and does not fill its record (R30 to R32), and an access that hits a
cached window (R147, R152 to R154). -/

namespace Sys2Proof.Machine

/-! ### What a command reports -/

/-- A command's outcome `w` is `v` but for the writer, whose owed sets, pending word, write and position
are given, which keeps every mark, and where each record of `marked` is marked or has changed. -/
theorem reports_of {s v w : State} {owed : Owed} {marked : List RecordId}
    (hframe : w = { v with writer := w.writer }) (howed : w.writer.owed = owed)
    (hpending : w.writer.pending = s.writer.pending) (hwrite : w.writer.write = s.writer.write)
    (hpos : w.writer.position = s.writer.position)
    (hkept : ∀ r, s.writer.marks.get r = true → w.writer.marks.get r = true)
    (hmarked : ∀ r ∈ marked, w.writer.marks.get r = true ∨ recordChanged s w r = true) :
    Reports s v owed marked (report s w) := by
  refine ⟨congrArg (fun x : State => { x with writer := (report s w).writer }) hframe, howed, hpending,
    hwrite, hpos, fun r hr => ?_, fun r hr => ?_⟩
  · rw [report_marks_get, hkept r hr, Bool.true_or]
  · rw [report_marks_get, Bool.or_eq_true]
    exact hmarked r hr

/-! ### Words stored, or refused before anything is stored -/

/-- The holders after the words of a write are stored in them (R31). -/
theorem storedJob_holdersAfter {s : State} {t : WriteTxn}
    (hspan : t.addr.toNat % 8 + (txnWords t).length ≤ 8) : HoldersAfter s t (storedJob s t).holders := by
  intro j
  obtain ⟨hin, hout, -⟩ := storeWords_spec (txnWords t) s.job (t.addr.toNat % 8) j hspan
  exact ⟨hin, hout⟩

/-- The mask after the words of a write are stored (R31). -/
theorem storedJob_mask {s : State} {t : WriteTxn}
    (hspan : t.addr.toNat % 8 + (txnWords t).length ≤ 8) (j : Fin 8) :
    (storedJob s t).mask.getLsbD j.val = true ↔ s.job.mask.getLsbD j.val = true ∨ storesTo t j := by
  obtain ⟨-, -, hmask⟩ := storeWords_spec (txnWords t) s.job (t.addr.toNat % 8) j hspan
  unfold storedJob storesTo
  rw [hmask, Bool.or_eq_true, decide_eq_true_iff]

/-- Words stored in a record that they do not fill are answered DONE (R31). -/
theorem journalWrite_notFull {s : State} {t : WriteTxn}
    (hspan : t.addr.toNat % 8 + (txnWords t).length ≤ 8) (hs : StoresWhole s t)
    (hf : ¬FillsRecord s t) :
    journalWrite t s = (s.setJob (storedJob s t)).answer (.done []) := by
  rw [journalWrite_stores hs, if_neg]
  rw [mask_complete_iff]
  exact fun h => hf fun j => (storedJob_mask hspan j).mp (h j)

/-- Settles O28, by the cases of `journalWrite` in their order. -/
theorem journalWriteStoredOrRefused : Obligations.JournalWriteStoredOrRefused := by
  refine ⟨fun s r i t n hw hs hf => ?_, fun s r i t n hw => ⟨fun hst => ?_, fun hst hp => ?_,
    fun hst hwhole hne hlt d h1 h2 hd => ?_⟩⟩
  · have hx := exec_writesJournal hw
    rw [journalWrite_notFull (s := s.touched n) hw.span hs hf] at hx
    refine ⟨_, hx, storedJob_holdersAfter (s := s.touched n) hw.span,
      storedJob_mask (s := s.touched n) hw.span, ?_, rfl, rfl, rfl, rfl⟩
    exact storeWords_frame (txnWords t) s.job _
  · refine refusedFrom_of ((exec_writesJournal hw).trans ?_)
    rw [journalWrite_noJob]
    show s.job.state ≠ .opened
    rw [hst]
    simp
  · refine refusedFrom_of ((exec_writesJournal hw).trans ?_)
    rw [journalWrite_partial (s := s.touched n) hst hp]
  · have hx := exec_writesJournal hw
    rw [journalWrite_elsewhere (s := s.touched n) hst hwhole hne] at hx
    have hdist : latestDistance (s.touched n).job (journalSlot (s.touched n).job (byteAddr t.addr)) = d :=
      latestDistance_eq (j := s.job) hlt h1 h2 hd
    rw [hdist, show (s.touched n).job = s.job from rfl] at hx
    refine ⟨fun hle => refusedFrom_of (hx.trans ?_), fun hgt => refusedFrom_of (hx.trans ?_)⟩
    · rw [if_pos (le_min hle h2)]
    · rw [if_neg (by omega)]

/-! ### The cache entry that matches (R147) -/

/-- What entry `i` of the cache answers to an address. -/
def entryHit (c : Cache) (a : Word) (i : Fin 8) : Option (Fin 8 × CacheEntry) :=
  (c.entries[i].filter fun e => inRange e.desc.w0 e.desc.w1 a).map fun e => (i, e)

theorem cacheHit_eq (c : Cache) (a : Word) :
    cacheHit c a = [(0 : Fin 8), 1, 2, 3, 4, 5, 6, 7].findSome? (entryHit c a) := by
  unfold cacheHit
  congr 1
  funext i
  unfold entryHit
  cases c.entries[i] with
  | none => rfl
  | some e => cases h : inRange e.desc.w0 e.desc.w1 a <;> simp [h]

theorem entryHit_iff (c : Cache) (a : Word) (i n : Fin 8) (e : CacheEntry) :
    entryHit c a i = some (n, e) ↔
      i = n ∧ c.entries[i] = some e ∧ inRange e.desc.w0 e.desc.w1 a = true := by
  unfold entryHit
  simp only [Option.map_eq_some_iff, Option.filter_eq_some_iff, Prod.mk.injEq]
  exact ⟨fun ⟨_, ⟨he, hr⟩, hn, h⟩ => h ▸ ⟨hn, he, hr⟩, fun ⟨hn, he, hr⟩ => ⟨e, ⟨he, hr⟩, hn, rfl⟩⟩

theorem cacheHit_some {c : Cache} {a : Word} {n : Fin 8} {e : CacheEntry}
    (h : cacheHit c a = some (n, e)) :
    c.entries[n] = some e ∧ inRange e.desc.w0 e.desc.w1 a = true := by
  rw [cacheHit_eq] at h
  obtain ⟨i, -, hi⟩ := List.exists_of_findSome?_eq_some h
  obtain ⟨rfl, he, hr⟩ := (entryHit_iff c a i n e).mp hi
  exact ⟨he, hr⟩

theorem cacheHit_none_iff (c : Cache) (a : Word) : cacheHit c a = none ↔
    ∀ (n : Fin 8) (e : CacheEntry), c.entries[n] = some e → inRange e.desc.w0 e.desc.w1 a = false := by
  rw [cacheHit_eq, List.findSome?_eq_none_iff]
  have hall : ∀ n : Fin 8, n ∈ [(0 : Fin 8), 1, 2, 3, 4, 5, 6, 7] := by decide
  refine ⟨fun h n e he => ?_, fun h i _ => ?_⟩
  · by_contra hr
    rw [Bool.not_eq_false] at hr
    exact absurd ((h n (hall n)).symm.trans ((entryHit_iff c a n n e).mpr ⟨rfl, he, hr⟩)) (by simp)
  · rw [Option.eq_none_iff_forall_ne_some]
    rintro ⟨n, e⟩ hi
    obtain ⟨rfl, he, hr⟩ := (entryHit_iff c a i n e).mp hi
    rw [h i e he] at hr
    cases hr

/-! ### Handling by the window (R152 to R154) -/

/-- A read or a write, by any of the rows that present it (log 8). -/
theorem exec_presents {i : Instr} {p : ProcTxn}
    (h : (∃ a n, i = .processorRead a n ∧ p = .read a n) ∨ ∃ t, presentsWrite i t ∧ p = .write t)
    (s : State) : exec i s = .next (report s (present p s)) := by
  rcases h with ⟨a, n, rfl, rfl⟩ | ⟨t, hi, rfl⟩
  · rfl
  · exact exec_presentsWrite hi s

/-- An access that hits cache entry `n` acts on its window, with the entry the most recently used. -/
theorem exec_windowHit {s : State} {r : Regions} {i : Instr} {p : ProcTxn} {n : Fin 8} {e : CacheEntry}
    (hi : (∃ a c, i = .processorRead a c ∧ p = .read a c) ∨ ∃ t, presentsWrite i t ∧ p = .write t)
    (hp : PortTakes s r) (hb : inOneBlock p = true) (hpage : inPage r (byteAddr p.addr) = false)
    (hwin : inWindowSpace r (byteAddr p.addr) = true)
    (hhit : cacheHit s.cache (byteAddr p.addr) = some (n, e)) :
    exec i s = .next (report s (actOnWindow p e.index e.desc (s.touched n))) := by
  obtain ⟨ht, hc, hr, -⟩ := hp
  rw [exec_presents hi, present_routed ht hc hb, routed_window hr hpage hwin]
  unfold windowAccess
  rw [hhit]
  rfl

/-- An access forwarded through a cache entry shows in no record. -/
theorem report_forwarded (s : State) (n : Fin 8) (p : ProcTxn) (a : Word) :
    report s (forwardTo p a (s.touched n)) = forwardTo p a (s.touched n) :=
  report_of_shown rfl rfl rfl rfl rfl rfl rfl rfl

theorem actOnPass_noAccess {p : ProcTxn} {d : Descriptor} (h : descAccess d = 0) (s : State) :
    actOnPass p d s = s.refuse .access p := by
  unfold actOnPass
  simp [h]

theorem actOnPass_readOnly {p : ProcTxn} {d : Descriptor} (h : descAccess d = 1) (s : State) :
    actOnPass p d s = if p.isWrite = true then s.refuse .access p
      else forwardTo p (translated d (byteAddr p.addr)) s := by
  unfold actOnPass
  rw [h]
  cases p.isWrite <;> rfl

theorem actOnPass_readWrite {p : ProcTxn} {d : Descriptor} (h : descAccess d = 2) (s : State) :
    actOnPass p d s = forwardTo p (translated d (byteAddr p.addr)) s := by
  unfold actOnPass
  simp [h]

/-- Reads of a journal or a ring are forwarded at their own address (R33, R154). -/
theorem actOnWindow_read {p : ProcTxn} {d : Descriptor} (index : BitVec 5)
    (hk : descKind d.w0 = some .journal ∨ descKind d.w0 = some .ring) (h : p.isWrite = false)
    (s : State) : actOnWindow p index d s = forwardTo p (byteAddr p.addr) s := by
  cases p with
  | write t => cases h
  | read a m =>
    unfold actOnWindow
    rcases hk with hk | hk <;> rw [hk] <;> rfl

theorem actOnWindow_ring_write {p : ProcTxn} {d : Descriptor} (index : BitVec 5)
    (hk : descKind d.w0 = some .ring) (h : p.isWrite = true) (s : State) :
    actOnWindow p index d s = s.refuse .access p := by
  cases p with
  | read a m => cases h
  | write t =>
    unfold actOnWindow
    rw [hk]

/-- A write of a JOURNAL window that is not the job's journal (R153). -/
theorem actOnWindow_otherJournal {p : ProcTxn} {d : Descriptor} {index : BitVec 5}
    (hk : descKind d.w0 = some .journal) (h : p.isWrite = true) {s : State}
    (hj : s.job.state = .noJob ∨ s.job.journal ≠ some index) :
    actOnWindow p index d s = s.refuse .noJob p := by
  have hl : ¬isLatchedJournal s index = true := by
    unfold isLatchedJournal
    rw [Bool.and_eq_true, bne_iff_ne, beq_iff_eq]
    rintro ⟨hs, hi⟩
    rcases hj with hj | hj
    · exact hs hj
    · exact hj hi
  cases p with
  | read a m => cases h
  | write t =>
    unfold actOnWindow
    rw [hk]
    exact if_neg hl

/-- Settles O19: a hit acts on its window, by the window's kind and access right. -/
theorem windowHitHandled : Obligations.WindowHitHandled := by
  refine ⟨fun c a => ⟨cacheHit_none_iff c a, fun n e h => cacheHit_some h⟩, ?_⟩
  intro s r i p n e hi hp hb a touched forwarded refused hpage hwin hhit
  have hx := exec_windowHit hi hp hb hpage hwin hhit
  have hrefused : ∀ kind, actOnWindow p e.index e.desc (s.touched n) = (s.touched n).refuse kind p →
      refused kind := fun kind h => refusedFrom_of (hx.trans (by rw [h]; rfl))
  have hforwarded : ∀ addr, actOnWindow p e.index e.desc (s.touched n) = forwardTo p addr (s.touched n) →
      forwarded addr := fun addr h => hx.trans (by rw [h, report_forwarded]; rfl)
  have hpass : descKind e.desc.w0 = some .pass →
      actOnWindow p e.index e.desc (s.touched n) = actOnPass p e.desc (s.touched n) := fun hk => by
    unfold actOnWindow
    rw [hk]
  refine ⟨fun hk => ⟨fun ha => ?_, fun ha hw => ?_, fun ha hw => ?_, fun ha => ?_⟩,
    fun hk => ⟨fun hw => ?_, fun hw hj => ?_⟩, fun hk => ⟨fun hw => ?_, fun hw => ?_⟩⟩
  · exact hrefused _ ((hpass hk).trans (actOnPass_noAccess ha _))
  · exact hrefused _ ((hpass hk).trans ((actOnPass_readOnly ha _).trans (if_pos hw)))
  · exact hforwarded _ ((hpass hk).trans ((actOnPass_readOnly ha _).trans (if_neg (by rw [hw]; decide))))
  · exact hforwarded _ ((hpass hk).trans (actOnPass_readWrite ha _))
  · exact hforwarded _ (actOnWindow_read _ (.inl hk) hw _)
  · exact hrefused _ (actOnWindow_otherJournal (s := s.touched n) hk hw hj)
  · exact hforwarded _ (actOnWindow_read _ (.inr hk) hw _)
  · exact hrefused _ (actOnWindow_ring_write _ hk hw _)

end Sys2Proof.Machine
end

section
/-! The job's commands: what OPEN, CLOSE and the undefined codes do as their word is taken (R23, R24, R26),
and how OPEN completes (R25). -/

namespace Sys2Proof.Machine

/-! ### The job command word as it acts -/

/-- Words 3 to 14 of the job control block go to the shadow alone. -/
theorem applyJobRun_eq : ∀ (ws : List Word) (n : Nat) (s : State), 3 ≤ n → n + ws.length ≤ 15 →
    ∃ sh, applyWords (jobBlockOffset n) (ws.map asWhole) s = { s with shadows := sh }
  | [], _, s, _, _ => ⟨s.shadows, rfl⟩
  | w :: ws, n, s, h1, h2 => by
    simp only [List.length_cons] at h2
    have hn : n < 16 := by omega
    have hword : applyJobWord ⟨n, hn⟩ w s = setJobShadow s ⟨n, hn⟩ w := by
      unfold applyJobWord
      rw [if_neg (by simp [Fin.ext_iff]; omega), if_neg (by simp [Fin.ext_iff]; omega)]
    obtain ⟨sh, hsh⟩ := applyJobRun_eq ws (n + 1) (setJobShadow s ⟨n, hn⟩ w) (by omega) (by omega)
    refine ⟨sh, ?_⟩
    rw [List.map_cons]
    unfold applyWords
    rw [show jobBlockOffset n = jobBlockOffset (⟨n, hn⟩ : Fin 16).val from rfl, pageWord_job]
    show applyWords (jobBlockOffset (n + 1)) _ (applyJobWord ⟨n, hn⟩ w s) = _
    rw [hword, hsh]
    rfl

/-- As the job command word acts, only the shadows differ from what stood before the write. -/
theorem atJobCommand_eq (s : State) {pre : List Word} (w : Word) (h : pre.length ≤ 7) :
    ∃ sh, s.atJobCommand pre w = { s with shadows := sh } := by
  obtain ⟨sh, hsh⟩ := applyJobRun_eq pre (15 - pre.length) s (by omega) (by omega)
  unfold State.atJobCommand
  rw [hsh]
  exact ⟨_, rfl⟩

theorem atJobCommand_frame (s : State) {pre : List Word} (w : Word) (h : pre.length ≤ 7) :
    (s.atJobCommand pre w).job = s.job ∧ (s.atJobCommand pre w).stations = s.stations
      ∧ (s.atJobCommand pre w).writer = s.writer := by
  obtain ⟨sh, e⟩ := atJobCommand_eq s w h
  rw [e]
  exact ⟨rfl, rfl, rfl⟩

/-! ### The end of a job command (R162) -/

/-- A job command that completes: what it reports, from a state `v` that is `b` but for the writer, in
which there may already be more marks and owed bits. -/
theorem reports_completeJob {s b v : State} (code : BitVec 4) (result : Result) {marked : List RecordId}
    (hb : v = { b with writer := v.writer }) (hpending : v.writer.pending = s.writer.pending)
    (hwrite : v.writer.write = s.writer.write) (hpos : v.writer.position = s.writer.position)
    (hkept : ∀ r, s.writer.marks.get r = true → v.writer.marks.get r = true)
    (hmarked : ∀ r ∈ marked, r = .job ∨ v.writer.marks.get r = true) :
    Reports s (b.jobDone code result) (v.writer.owed.plus .job jobDoneBit) marked
      (report s (v.completeJob code result)) :=
  reports_of (congrArg (fun x : State => { x.jobDone code result with
      writer := (v.completeJob code result).writer }) hb) rfl hpending hwrite hpos
    (fun r hr => Marks.get_set_kept _ _ _ (hkept r hr))
    fun r hr => .inl <| by
      rcases hmarked r hr with rfl | h
      · exact Marks.get_set_self v.writer.marks .job true
      · exact Marks.get_set_kept _ _ _ h

/-- A job command that completes within the write of its word, as the statements have it. -/
theorem jobCommandEnds_of {i : Instr} {s v : State} {t : WriteTxn} {code : BitVec 4} {result : Result}
    (h : exec i s = .next (report s ((v.completeJob code result).forwardsPage t)))
    (hw : v.writer = s.writer) : JobCommandEnds i s v t code result := by
  exact ⟨_, h, reports_completeJob (b := v.forwardsPage t) (v := v.forwardsPage t) code result rfl
    (congrArg Writer.pending hw) (congrArg Writer.write hw) (congrArg Writer.position hw)
    (fun r hr => (congrArg (fun w : Writer => w.marks.get r) hw).trans hr)
    fun r hr => .inl (List.mem_singleton.mp hr)⟩

/-- A job command whose start, from the state in which its word acts, completes it at once. -/
theorem jobCommandEnds_taken {i : Instr} {s v : State} {r : Regions} {pre : List Word} {w : Word}
    {code : BitVec 4} {result : Result} (hp : PortTakes s r) (hl : pre.length ≤ 7)
    (ho : s.job.opening = none) (hi : exec i s = jobCommand pre w s)
    (hs : startJobCommand w (s.atJobCommand pre w) = v.completeJob code result)
    (hw : v.writer = (s.atJobCommand pre w).writer) :
    JobCommandEnds i s v (writeUpTo s (jobBlockOffset 15) pre w) code result := by
  obtain ⟨-, -, hwriter⟩ := atJobCommand_frame s w hl
  refine jobCommandEnds_of ?_ (hw.trans hwriter)
  rw [hi, jobCommand_starts w hp hl ho, hs]

/-! ### OPEN, CLOSE and the undefined codes as their word is taken -/

theorem startJobCommand_open (spare : BitVec 7) (index : BitVec 5) (start : Seq) (s : State) :
    startJobCommand (openWord spare index start) s = startOpen (openWord spare index start) s := by
  unfold startJobCommand
  rw [cmdCode_openWord]
  rfl

theorem startJobCommand_close (arg : BitVec 28) (s : State) :
    startJobCommand (commandWord 2#4 arg) s = startClose s := by
  unfold startJobCommand
  rw [cmdCode_commandWord]
  rfl

theorem startJobCommand_undefined {code : BitVec 4} (arg : BitVec 28) (h : 3#4 ≤ code) (s : State) :
    startJobCommand (commandWord code arg) s = s.completeJob code .badCmd := by
  have hc : 3 ≤ code.toNat := h
  unfold startJobCommand
  rw [cmdCode_commandWord]
  split
  case h_4 => rfl
  all_goals omega

theorem cmdIndex_openWord (spare : BitVec 7) (index : BitVec 5) (start : Seq) :
    cmdIndex (openWord spare index start) = index := by
  unfold cmdIndex openWord
  ext i hi
  rw [BitVec.getElem_extractLsb', BitVec.getLsbD_append, BitVec.getLsbD_append]
  simp [show ¬4 + i < 4 by omega, hi]

theorem cmdSeq_openWord (spare : BitVec 7) (index : BitVec 5) (start : Seq) :
    cmdSeq (openWord spare index start) = start := by
  unfold cmdSeq openWord
  ext i hi
  rw [BitVec.getElem_extractLsb', BitVec.getLsbD_append, BitVec.getLsbD_append, BitVec.getLsbD_append]
  simp only [show ¬16 + i < 4 by omega, show ¬16 + i - 4 < 5 by omega, show ¬16 + i - 4 - 5 < 7 by omega, if_false]
  rw [show 16 + i - 4 - 5 - 7 = i by omega]
  rfl

theorem allOff_eq_false_iff (s : State) :
    allOff s = false ↔ ∃ k : StationId, s.stations[k].feed ≠ .off := by
  unfold allOff
  rw [← Bool.not_eq_true, List.all_eq_true]
  simp [stationOrder_complete]

/-- The busy bit of the job status record (Table 12-7). -/
theorem jobStatusLower_busy (s : State) : (jobStatusLower s)[0].getLsbD 8 = jobBusy s.job := by
  have hstate : (place (jobStateCode s.job.state) 0).getLsbD 8 = false := by
    cases s.job.state <;> decide
  have hstop : (placeFlag (!s.stop.qualified) 4).getLsbD 8 = false := by
    cases s.stop.qualified <;> decide
  have hbusy : (placeFlag (jobBusy s.job) 8).getLsbD 8 = jobBusy s.job := by
    cases jobBusy s.job <;> decide
  have habove : ∀ n pos, 8 < pos → (place n pos).getLsbD 8 = false := fun n pos h => by
    simp [place, h]
  show (_ ||| _ ||| _ ||| _ ||| _ ||| _ : Word).getLsbD 8 = _
  simp only [BitVec.getLsbD_or, hstate, hstop, hbusy, habove _ 12 (by decide), habove _ 16 (by decide),
    habove _ 24 (by decide), Bool.false_or, Bool.or_false]

/-- The job's slot taken up marks the job record (R163). -/
theorem recordChanged_job_busy {s t : State} (hs : s.job.opening = none)
    (ht : t.job.opening.isSome = true) : recordChanged s t .job = true := by
  unfold recordChanged
  rw [Bool.or_eq_true, bne_iff_ne]
  refine .inl fun h => ?_
  have hbit := congrArg (fun r : Record => r[0].getLsbD 8) h
  simp only [recordLower, jobStatusLower_busy, jobBusy, hs, ht] at hbit
  cases hbit

/-- Settles O32: each command from the state in which its word acts, where the job and the stations are
those before the write. -/
theorem jobCommandsTaken : Obligations.JobCommandsTaken := by
  intro s r pre spare index start code arg hp hl ho txn op u c
  obtain ⟨hujob, hust, huw⟩ := atJobCommand_frame s op hl
  obtain ⟨hcjob, -, -⟩ := atJobCommand_frame s (commandWord 2#4 arg) hl
  have hfails : (u.job.state = .opened ∨ allOff u = false) ↔
      (s.job.state = .opened ∨ ∃ k : StationId, s.stations[k].feed ≠ .off) := by
    rw [allOff_eq_false_iff, hujob, hust]
  have hclose := startJobCommand_close arg c
  refine ⟨⟨fun hbad => ?_, fun hgood => ?_⟩, ⟨fun hst => ?_, fun hst => ?_, fun hst => ?_⟩, fun hcode => ?_⟩
  · refine jobCommandEnds_taken hp hl ho rfl ?_ rfl
    exact (startJobCommand_open ..).trans (if_pos (hfails.mpr hbad))
  · have hstart : startJobCommand op u = u.setJob { u.job with opening := some (index, start) } := by
      rw [startJobCommand_open]
      unfold startOpen
      rw [if_neg fun h => hgood (hfails.mp h), cmdIndex_openWord, cmdSeq_openWord]
    have hx : exec (.openJob pre spare index start) s = _ := jobCommand_starts op hp hl ho
    rw [show startJobCommand op (s.atJobCommand pre op) = _ from hstart] at hx
    refine ⟨_, hx, reports_of rfl (congrArg Writer.owed huw) (congrArg Writer.pending huw)
      (congrArg Writer.write huw) (congrArg Writer.position huw) (fun q hq => ?_) fun q hq => .inr ?_⟩
    · exact (congrArg (fun w : Writer => w.marks.get q) huw).trans hq
    · rw [List.mem_singleton.mp hq]
      exact recordChanged_job_busy ho rfl
  · refine jobCommandEnds_taken hp hl ho rfl (hclose.trans ?_) rfl
    unfold startClose
    rw [hcjob, hst]
    simp only [← hcjob]
    rfl
  · refine jobCommandEnds_taken hp hl ho rfl (hclose.trans ?_) rfl
    unfold startClose
    rw [hcjob, hst]
  · refine jobCommandEnds_taken hp hl ho rfl (hclose.trans ?_) rfl
    unfold startClose
    rw [hcjob, hst]
  · exact jobCommandEnds_taken hp hl ho rfl (startJobCommand_undefined arg hcode _) rfl

/-! ### The completion of OPEN (R25) -/

theorem fieldOf_kind_journal (w0 : Word) : descKind w0 = some .journal ↔ fieldOf w0 4 2 = 1 := by
  unfold descKind
  split <;> simp_all

/-- The tests that OPEN makes on its descriptor, from the bits and bytes (R25 case 3). -/
theorem journalAccepted_iff (page : Word) (v : Vector Word 4) :
    journalAccepted page (descOf v) = true ↔ OpensJournal page v := by
  have hclear : clearOfPage page v[1] (windowBytes v) = true ↔
      (v[1].toNat + windowBytes v ≤ page.toNat ∨ page.toNat + 2048 ≤ v[1].toNat) := by
    unfold clearOfPage pageSize
    rw [Bool.not_eq_true', blocksMeet_eq_false]
    omega
  have halign : alignedTo v[1] (windowBytes v) = true ↔ v[1].toNat % windowBytes v = 0 := beq_iff_eq
  unfold journalAccepted OpensJournal DescriptorSound
  rw [← hclear, ← halign, ← fieldOf_kind_journal]
  simp only [Bool.and_eq_true, beq_iff_eq, noReserved, bne_iff_ne, Option.isSome_iff_exists]
  constructor
  · rintro ⟨⟨⟨⟨⟨hvalid, hkind⟩, hsize⟩, ⟨-, hprio⟩, hacc⟩, hal⟩, hcl⟩
    exact ⟨⟨hvalid, hprio, hacc, hal, hcl⟩, hkind, of_decide_eq_true hsize⟩
  · rintro ⟨⟨hvalid, hprio, hacc, hal, hcl⟩, hkind, hsize⟩
    exact ⟨⟨⟨⟨⟨hvalid, hkind⟩, decide_eq_true hsize⟩, ⟨⟨_, hkind⟩, hprio⟩, hacc⟩, hal⟩, hcl⟩

/-- A station that is not OFF fails an OPEN that is under way (R25 case 2). -/
theorem completeOpen_badState {index : BitVec 5} {start : Seq} {v : Vector Word 4} {s : State}
    (h : ∃ k : StationId, s.stations[k].feed ≠ .off) :
    completeOpen index start (.ok v) s = s.completeJob 1#4 .badState :=
  if_pos ((allOff_eq_false_iff s).mpr h)

/-- OPEN's descriptor decides once every station is OFF (R25 cases 3 and 4). -/
theorem completeOpen_decided {index : BitVec 5} {start : Seq} {v : Vector Word 4} {s : State}
    (h : ∀ k : StationId, s.stations[k].feed = .off) :
    completeOpen index start (.ok v) s =
      if journalAccepted (pageBase s) (descOf v) then
        (s.setJob (openedJob s index start (descOf v))).completeJob 1#4 .ok
      else s.completeJob 1#4 .badArg :=
  if_neg fun hoff => by
    obtain ⟨k, hk⟩ := (allOff_eq_false_iff s).mp hoff
    exact hk (h k)

theorem completeOpen_badArg {index : BitVec 5} {start : Seq} {v : Vector Word 4} {s : State}
    (hoff : ∀ k : StationId, s.stations[k].feed = .off) (h : ¬OpensJournal (pageBase s) v) :
    completeOpen index start (.ok v) s = s.completeJob 1#4 .badArg := by
  rw [completeOpen_decided hoff, if_neg (fun ha => h ((journalAccepted_iff _ _).mp ha))]

theorem completeOpen_ok {index : BitVec 5} {start : Seq} {v : Vector Word 4} {s : State}
    (hoff : ∀ k : StationId, s.stations[k].feed = .off) (h : OpensJournal (pageBase s) v) :
    completeOpen index start (.ok v) s =
      (s.setJob (openedJob s index start (descOf v))).completeJob 1#4 .ok := by
  rw [completeOpen_decided hoff, if_pos ((journalAccepted_iff _ _).mpr h)]

/-- Settles O33, by the cases of R25 in their order. -/
theorem openCompletes : Obligations.OpenCompletes := by
  intro s m index start v hp hport hopen ends
  have hgives : ∀ ans, AnswerGives .openComplete ans s
      (report s (completeOpen index start ans s.freed)) := fun ans => by
    have hrow : openComplete ans s = completeOpen index start ans s.freed := by
      unfold openComplete
      rw [inFlightFor_eq hport, hopen]
      rfl
    rw [← hrow]
    exact answerGives_of (fun _ => rfl) hp
  have hends : ∀ {u : State} (result : Result),
      completeOpen index start (.ok v) s.freed = u.completeJob 1#4 result → u.writer = s.writer →
      ends (.ok v) u result := fun {u} result hu hw => by
    refine ⟨_, hu ▸ hgives (.ok v), ?_⟩
    rw [← hw]
    exact reports_completeJob 1#4 result rfl (by rw [hw]) (by rw [hw]) (by rw [hw])
      (by rw [hw]; exact fun _ h => h) fun r hr => .inl (List.mem_singleton.mp hr)
  refine ⟨⟨_, hgives .fault, ?_⟩, fun hst => hends _ (completeOpen_badState hst) rfl,
    fun hoff => ⟨fun hbad => hends _ ?_ rfl, fun hgood => hends _ ?_ rfl⟩⟩
  · have hfault : completeOpen index start .fault s.freed = _ := congrArg (State.completeJob · 1#4 .badArg)
      (logError_eq s.freed .memFault .command false (descAddr s index.toNat) 0#32 none)
    rw [hfault]
    refine reports_completeJob 1#4 .badArg rfl rfl rfl rfl (Marks.get_set_kept _ _ · ·) fun r hr => ?_
    rcases List.mem_cons.mp hr with rfl | hr
    · exact .inl rfl
    · rw [List.mem_singleton.mp hr]
      exact .inr (Marks.get_set_self s.writer.marks .errorLog true)
  · exact completeOpen_badArg (s := s.freed) hoff hbad
  · exact completeOpen_ok (s := s.freed) hoff hgood

end Sys2Proof.Machine
end

section
/-! Writes of the control page that are taken: the descriptor table and the settings of the control blocks
(R101, R142, R143, R158 to R160). -/

namespace Sys2Proof.Machine

/-- A write of the page whose words are all taken is applied and forwarded (R142). -/
theorem exec_pageTaken {s : State} {r : Regions} {i : Instr} {t : WriteTxn} (hi : presentsWrite i t)
    (hp : PortTakes s r) (hb : inOneBlock (.write t) = true) (hpage : inPage r (byteAddr t.addr) = true)
    (hd : ∀ d ∈ decisions s (pageOffset (byteAddr t.addr)) (txnWords t), d = .taken) :
    exec i s = .next (report s
      ((applyWords (pageOffset (byteAddr t.addr)) (txnWords t) s).forwardsPage t)) := by
  obtain ⟨htk, hc, hr, -⟩ := hp
  have hroute : present (.write t) s = pageWrite t s :=
    (present_routed htk hc hb).trans (routed_page (p := .write t) hr hpage)
  rw [exec_presentsWrite hi, hroute, pageWrite_taken hd]
  rfl

/-! ### The descriptor table -/

theorem pageWord_table {offset : Nat} (h : offset < 0x200) :
    pageWord offset = .table (BitVec.ofNat 5 (offset / 16)) := if_pos h

/-- Words of the table empty the cache, however many they are (R143). -/
theorem applyWords_table : ∀ (w : WriteWord) (ws : List WriteWord) (offset : Nat) (s : State),
    offset + 4 * (w :: ws).length ≤ 0x200 → applyWords offset (w :: ws) s = invalidateCache s
  | w, [], offset, s, h => by
    simp only [List.length_cons, List.length_nil] at h
    unfold applyWords applyWords
    rw [pageWord_table (by omega)]
    rfl
  | w, w' :: ws, offset, s, h => by
    simp only [List.length_cons] at h
    unfold applyWords
    rw [applyWords_table w' ws (offset + 4) _ (by simp only [List.length_cons]; omega),
      pageWord_table (by omega)]
    rfl

theorem tableWriteTaken {s : State} {r : Regions} {t : WriteTxn} (hp : PortTakes s r)
    (hb : inOneBlock (.write t) = true) (hpage : inPage r (byteAddr t.addr) = true)
    (hlen : (byteAddr t.addr).toNat - r.page.toNat + 4 * (txnWords t).length ≤ 0x200)
    (hd : ∀ d ∈ decisions s ((byteAddr t.addr).toNat - r.page.toNat) (txnWords t), d = .taken) :
    exec (.descriptorTableWrite t) s = .next ((invalidateCache s).forwardsPage t) := by
  obtain ⟨-, -, -, halign⟩ := id hp
  have hoff := pageOffset_eq halign hpage
  rw [exec_pageTaken (.inr (.inr (.inl rfl))) hp hb hpage (hoff ▸ hd), hoff,
    show txnWords t = t.first :: t.rest from rfl, applyWords_table _ _ _ _ hlen]
  exact congrArg Host.Outcome.next (report_of_shown rfl rfl rfl rfl rfl rfl rfl rfl)

/-! ### One word of a control block -/

/-- A taken write of one whole word does what the word does (R142, R157). -/
theorem exec_pageWordTaken {s u : State} {r : Regions} {n : Nat} {v : Word} (hp : PortTakes s r)
    (hn : n < 2048) (h4 : n % 4 = 0) (hd : wordDecision s n (asWhole v) = .taken)
    (hu : applyWord v s (pageWord n) = u) :
    exec (.controlBlockWrite (writeUpTo s n [] v)) s = .next (report s
      (u.forwardsPage (writeUpTo s n [] v))) := by
  obtain ⟨-, -, hlatched, halign⟩ := id hp
  obtain ⟨hwords, hpage, hoff, hb⟩ :=
    writeUpTo_spec (s := s) hlatched halign (pre := []) v hn h4 (Nat.zero_le _)
  rw [exec_pageTaken (.inr (.inr (.inr rfl))) hp hb hpage ?_, hoff, hwords, ← hu]
  · rfl
  · rw [hoff, hwords]
    exact fun d h => (List.mem_singleton.mp h).trans hd

/-- The line settings go to the link's controller, unless it is finishing a bus reset (R101). -/
theorem copyLine_eq (s : State) (k : StationId) : copyLine k s = { s with
    links := if s.links[k].resetWork = false then
        s.links.set k { s.links[k] with line := cbLine s.shadows.stations[k] }
      else s.links } := by
  unfold copyLine
  cases hw : s.links[k].resetWork with
  | true => rfl
  | false => rfl

/-- The words of a station's block that carry a setting, and a command word that names no command, go to
the shadow; the line settings go to the link as well (R101, R158). -/
theorem applyStationWord_setting {k : StationId} {n : Fin 16} {v : Word} (s : State)
    (h : n.val ≤ 13 ∨ (n.val = 15 ∧ v.extractLsb' 0 4 = 0#4)) :
    applyStationWord k n v s = { setStationShadow s k n v with
      links := if n.val = 12 ∧ s.links[k].resetWork = false then
          s.links.set k { s.links[k] with line := cbLine (s.shadows.stations[k].set n v) }
        else s.links } := by
  have hcode : n = 15 → ∀ t, startStationCommand k v t = t := fun hn t => by
    rcases h with h | ⟨-, hcode⟩
    · rw [hn] at h
      exact absurd h (by decide)
    · unfold startStationCommand
      rw [show cmdCode v = 0#4 from hcode]
      rfl
  have h14 : n ≠ 14 := by
    rintro rfl
    rcases h with h | ⟨h, -⟩ <;> exact absurd h (by decide)
  unfold applyStationWord
  simp only [if_neg h14]
  by_cases h12 : n = 12
  · subst h12
    have hset : (setStationShadow s k 12 v).shadows.stations[k] = s.shadows.stations[k].set 12 v :=
      get_set_self _ _ _
    rw [if_pos rfl, copyLine_eq, hset]
    show ({ setStationShadow s k 12 v with links := if s.links[k].resetWork = false then _ else _ } : State) = _
    by_cases hw : s.links[k].resetWork = false
    · rw [if_pos hw, if_pos ⟨rfl, hw⟩]
      rfl
    · rw [if_neg hw, if_neg fun hl => hw hl.2]
      rfl
  · have h12' : ¬n.val = 12 := fun e => h12 (Fin.ext e)
    have hstart : (if n = 15 then startStationCommand k v (setStationShadow s k n v)
        else setStationShadow s k n v) = setStationShadow s k n v := by
      split
      · next hn => exact hcode hn _
      · rfl
    rw [if_neg h12, hstart, if_neg fun hl => h12' hl.1]
    rfl

/-- The words of the job control block but the acknowledge word and a word that names a command go to
the shadow alone (R160). -/
theorem applyJobWord_setting {n : Fin 16} {v : Word} (s : State) (h2 : n ≠ 2)
    (h : n = 15 → v.extractLsb' 0 4 = 0#4) : applyJobWord n v s = setJobShadow s n v := by
  unfold applyJobWord
  rw [if_neg h2]
  by_cases hn : n = 15
  · rw [if_pos hn]
    unfold startJobCommand
    rw [show cmdCode v = 0#4 from h hn]
    rfl
  · rw [if_neg hn]

/-- The records show of the job's shadow the enable mask alone (R168). -/
theorem report_of_masked {s t : State} (hj : t.job = s.job) (hs : t.stations = s.stations)
    (hb : t.breaks = s.breaks) (hp : t.stop = s.stop) (hg : t.gate = s.gate)
    (hw : t.writer.pending = s.writer.pending) (he : enableMask t = enableMask s)
    (hl : t.log = s.log) : report s t = t :=
  report_same s t fun r => by
    cases r <;>
      simp [recordChanged, recordLower, recordUpper, summaryRecord, jobStatusLower, jobStatusUpper, hj, hs,
        hb, hp, hg, hw, he, hl]

theorem enableMask_setJobShadow (s : State) {n : Fin 16} (v : Word) (h : n ≠ 1) :
    enableMask (setJobShadow s n v) = enableMask s := by
  show (Vector.set s.shadows.job n v)[1] = s.shadows.job[1]
  exact Vector.getElem_set_ne n.isLt (by decide) fun e => h (Fin.ext e)

/-! ### The words' areas, and their decisions -/

theorem pageWord_unused (n : Fin 16) : pageWord (0x3C0 + 4 * n.val) = .unused := by
  have hn := n.isLt
  unfold pageWord
  rw [if_neg (by omega), if_neg (by omega), if_neg (by omega), if_pos (by omega)]

theorem unusedDecision_taken (s : State) (n : Fin 16) (v : Word) :
    wordDecision s (0x3C0 + 4 * n.val) (asWhole v) = .taken := by
  unfold wordDecision
  rw [asWhole_whole, if_pos rfl, pageWord_unused]
  rfl

theorem stationSettingTaken {s : State} {r : Regions} {n : Fin 16} {v : Word} {k : StationId}
    (hp : PortTakes s r)
    (h : (n.val ≤ 12 ∧ s.stations[k].feed = .off) ∨ n.val = 13
      ∨ (n.val = 15 ∧ s.stations[k].progress = .idle ∧ v.extractLsb' 0 4 = 0#4)) :
    exec (.controlBlockWrite (writeUpTo s (stationBlockOffset k n) [] v)) s = .next
      (State.forwardsPage { setStationShadow s k n v with
        links := if n.val = 12 ∧ s.links[k].resetWork = false then
            s.links.set k { s.links[k] with line := cbLine (s.shadows.stations[k].set n v) }
          else s.links } (writeUpTo s (stationBlockOffset k n) [] v)) := by
  have hk := k.isLt
  have hn := n.isLt
  have hd : wordDecision s (stationBlockOffset k n) (asWhole v) = .taken := by
    apply stationDecision_taken
    · intro hle
      rcases h with ⟨-, hoff⟩ | h | ⟨h, -⟩
      · exact hoff
      · omega
      · omega
    · intro h15
      rcases h with ⟨h, -⟩ | h | ⟨-, hidle, -⟩
      · omega
      · omega
      · exact hidle
  have hset : n.val ≤ 13 ∨ (n.val = 15 ∧ v.extractLsb' 0 4 = 0#4) := by
    rcases h with ⟨h, -⟩ | h | ⟨h, -, hcode⟩
    · exact .inl (by omega)
    · exact .inl (by omega)
    · exact .inr ⟨h, hcode⟩
  have hu := applyStationWord_setting (k := k) s hset
  rw [← show applyWord v s (pageWord (stationBlockOffset k n)) = applyStationWord k n v s by
    rw [pageWord_station]; rfl] at hu
  rw [exec_pageWordTaken hp (by unfold stationBlockOffset; omega) (by unfold stationBlockOffset; omega) hd hu]
  exact congrArg Host.Outcome.next (report_of_shown rfl rfl rfl rfl rfl rfl rfl rfl)

theorem jobSettingTaken {s : State} {r : Regions} {n : Fin 16} {v : Word} (hp : PortTakes s r)
    (h : (n.val = 0 ∧ s.job.state = .noJob) ∨ (3 ≤ n.val ∧ n.val ≤ 14)
      ∨ (n.val = 15 ∧ s.job.opening = none ∧ v.extractLsb' 0 4 = 0#4)) :
    exec (.controlBlockWrite (writeUpTo s (jobBlockOffset n) [] v)) s = .next
      ((setJobShadow s n v).forwardsPage (writeUpTo s (jobBlockOffset n) [] v)) := by
  have hn := n.isLt
  have hd : wordDecision s (jobBlockOffset n) (asWhole v) = .taken := by
    apply jobDecision_taken
    · intro h0
      rcases h with ⟨-, hno⟩ | ⟨h, -⟩ | ⟨h, -⟩
      · exact hno
      · omega
      · omega
    · intro h15
      rcases h with ⟨h, -⟩ | ⟨-, h⟩ | ⟨-, hidle, -⟩
      · omega
      · omega
      · exact hidle
  have hcode : n = 15 → v.extractLsb' 0 4 = 0#4 := by
    rintro rfl
    rcases h with ⟨h, -⟩ | ⟨-, h⟩ | ⟨-, -, hcode⟩
    · exact absurd h (by decide)
    · exact absurd h (by decide)
    · exact hcode
  have h1 : n ≠ 1 ∧ n ≠ 2 := by
    constructor <;> rintro rfl <;> simp at h
  have hu := applyJobWord_setting s h1.2 hcode
  rw [← show applyWord v s (pageWord (jobBlockOffset n)) = applyJobWord n v s by
    rw [pageWord_job]; rfl] at hu
  rw [exec_pageWordTaken hp (by unfold jobBlockOffset; omega) (by unfold jobBlockOffset; omega) hd hu]
  exact congrArg Host.Outcome.next
    (report_of_masked rfl rfl rfl rfl rfl rfl (enableMask_setJobShadow s v h1.1) rfl)

theorem unusedWordTaken {s : State} {r : Regions} (n : Fin 16) (v : Word) (hp : PortTakes s r) :
    exec (.controlBlockWrite (writeUpTo s (0x3C0 + 4 * n.val) [] v)) s = .next
      (s.forwardsPage (writeUpTo s (0x3C0 + 4 * n.val) [] v)) := by
  have hn := n.isLt
  have hu : applyWord v s (pageWord (0x3C0 + 4 * n.val)) = s := by
    rw [pageWord_unused]
    rfl
  rw [exec_pageWordTaken hp (by omega) (by omega) (unusedDecision_taken s n v) hu]
  exact congrArg Host.Outcome.next (report_of_shown rfl rfl rfl rfl rfl rfl rfl rfl)

/-! ### The settings of a station's block (Table 12-5) -/

theorem cbLine_parity (b : Block) : (cbLine b).parity =
    if fieldOf b[12] 8 2 = 1 then .even else if fieldOf b[12] 8 2 = 2 then .odd else .none := by
  show parityOfCode (fieldOf b[12] 8 2) = _
  unfold parityOfCode
  split <;> simp_all

theorem cbQueueDepth_eq (b : Block) : cbQueueDepth b =
    if fieldOf b[12] 12 4 = 0 then 1 else if 8 < fieldOf b[12] 12 4 then 8 else fieldOf b[12] 12 4 := by
  unfold cbQueueDepth
  split
  · omega
  · split <;> omega

/-- Settles O24: the words' writes by area, and the fields as they stand in the block. -/
theorem tableAndSettingWritesTaken : Obligations.TableAndSettingWritesTaken := by
  refine ⟨fun s r t hp hb hpage hlen hd => tableWriteTaken hp hb hpage hlen hd, fun s r n v hp =>
    ⟨fun k h => stationSettingTaken hp h, fun h => jobSettingTaken hp h, unusedWordTaken n v hp⟩, fun b => ?_⟩
  exact ⟨rfl, beq_iff_eq, rfl, rfl, rfl, rfl, rfl, rfl, rfl, rfl, rfl, rfl, rfl, rfl, rfl, rfl, rfl, rfl,
    cbLine_parity b, rfl, rfl, cbQueueDepth_eq b, rfl, rfl⟩

end Sys2Proof.Machine
end

section
/-! The end of a commit: the journal write's answer, the ring writes and their answers, and the stations
that a fault takes out of the live work (R38 to R42, R49, R55 to R57, R82, R86, R91). -/

namespace Sys2Proof.Machine

/-! ### A station taken out of the live work -/

/-- A station that is not a member is told of the gate once, whatever its fields are (R91). -/
theorem told_told (g : Gate) (k : StationId) {a b : Station} (ha : isMember a = false)
    (hb : isMember b = false) : (g.told k a).told k b = g.told k b := by
  have hout : inSet k (g.told k a).members = false := by
    rw [told_members_get, if_pos rfl, ha]
  have hsame : g.told k a = g.told k b := by
    unfold Gate.told
    rw [ha, hb]
    simp
  rw [← hsame]
  generalize g.told k a = g' at *
  unfold Gate.told
  simp [hb, hout]

/-- Bits owed to one record a second time. -/
theorem Owed.plus_again (o : Owed) (r : RecordId) (bits : Word) :
    (o.plus r bits).plus r bits = o.plus r bits := by
  rw [Owed.plus_plus, BitVec.or_self]

theorem isMember_fault {st : Station} {c : FaultCode} (h : st.drive = .fault c) : isMember st = false := by
  unfold isMember
  rw [h]
  cases st.feed <;> rfl

/-- Station k and its link have taken new values, the gate is told, the staging condition weighed, a turn
of a CATCHUP station overtaken, and the event bit owed (R40, R72, R79, R82). -/
def State.takenOut (s : State) (k : StationId) (f : Station) (l : Link) : State :=
  { s.moved k f l with
    replay := if s.stations[k].feed = .catchup then { s.replay with turn := s.overtakenTurn k } else s.replay
    writer := { s.writer with owed := s.writer.owed.plus (.station k) (eventBit k) } }

/-- From LIVE there is no turn to overtake. -/
theorem takenOut_live {s : State} {k : StationId} (h : s.stations[k].feed = .live) (f : Station)
    (l : Link) : s.takenOut k f l = { s.moved k f l with
      writer := { s.writer with owed := s.writer.owed.plus (.station k) (eventBit k) } } := by
  unfold State.takenOut
  rw [if_neg (by rw [h]; exact nofun)]
  rfl

/-- A LIVE or CATCHUP feed becomes DETACHED, with the staging condition weighed (R38, R40, R82). -/
theorem detachFeed_fed {s : State} {k : StationId}
    (h : s.stations[k].feed = .live ∨ s.stations[k].feed = .catchup) :
    (s.detachFeed k).weighDrain k =
      s.takenOut k { s.stations[k] with feed := .detached } s.links[k] := by
  rcases h with h | h
  · rw [takenOut_live h, detachFeed_live h, oweEvent_weighDrain, weighDrain_eq]
    simp only [get_set_self]
    rfl
  · unfold State.takenOut
    rw [if_pos h, detachFeed_catchup h, oweEvent_weighDrain, weighDrain_eq]
    simp only [get_set_self]
    rfl

theorem detachFeed_unfed {s : State} {k : StationId}
    (h : ¬(s.stations[k].feed = .live ∨ s.stations[k].feed = .catchup)) :
    (s.detachFeed k).weighDrain k = { s with links := s.links.set k (s.links[k].drained s.stations[k]) } := by
  rw [detachFeed_other (fun hl => h (.inl hl)) (fun hc => h (.inr hc)), weighDrain_eq]

/-- An entry into HELD or FAULT (R56, R57). -/
theorem enterDrive_eq (s : State) (k : StationId) (d : Drive) (h : Option Byte) :
    s.enterDrive k d h = { s with
      links := s.links.set k (s.links[k].rewind.placeHalt h)
      stations := s.stations.set k { s.stations[k] with drive := d, send := s.stations[k].done }
      gate := s.gate.told k { s.stations[k] with drive := d, send := s.stations[k].done } } := by
  unfold State.enterDrive
  simp only []
  rw [tellGate_eq, setStation_get]
  rfl

/-- A station as a fault takes it out: its feed DETACHED if it was fed (R40). -/
def Station.out (st : Station) (d : Drive) (q : Seq) : Station :=
  { st with feed := if st.feed = .live ∨ st.feed = .catchup then .detached else st.feed, drive := d, send := q }

/-- An entry into FAULT, and the feed's leaving the live work (R40, R55 to R57, R91). -/
theorem enterFault_detach (s : State) (k : StationId) (c : FaultCode) (h : Option Byte) :
    ((((s.enterDrive k (.fault c) h).oweEvent k).detachFeed k).weighDrain k) =
      s.takenOut k (s.stations[k].out (.fault c) s.stations[k].done) (s.links[k].rewind.placeHalt h) := by
  generalize ht : (s.enterDrive k (.fault c) h).oweEvent k = t
  have hst : t.stations[k] = { s.stations[k] with drive := .fault c, send := s.stations[k].done } := by
    rw [← ht, enterDrive_eq]
    exact get_set_self _ _ _
  have hlink : t.links[k] = s.links[k].rewind.placeHalt h := by
    rw [← ht, enterDrive_eq]
    exact get_set_self _ _ _
  by_cases hfed : s.stations[k].feed = .live ∨ s.stations[k].feed = .catchup
  · rw [detachFeed_fed (by rw [hst]; exact hfed), hst, hlink]
    unfold Station.out State.takenOut State.moved
    rw [if_pos hfed, hst, ← ht, enterDrive_eq]
    simp only [State.oweEvent, State.owe, State.setWriter, vector_set_set]
    rw [told_told _ _ (isMember_fault rfl) (isMember_fault rfl),
      show (s.writer.owed.set (.station k) _).plus _ _ = _ from Owed.plus_again s.writer.owed _ _]
    rfl
  · rw [detachFeed_unfed (by rw [hst]; exact hfed), hst, hlink]
    unfold Station.out State.takenOut State.moved
    rw [if_neg hfed, if_neg (fun hc => hfed (.inr hc)), ← ht, enterDrive_eq]
    simp only [State.oweEvent, State.owe, State.setWriter, vector_set_set]
    rfl

/-- The drive of a station that a request to enter FAULT moves (R55). -/
def Drive.entersFault (d : Drive) : Prop := d = .running ∨ ∃ h, d = .held h

theorem requestFault_other {s : State} {k : StationId} (h : ¬s.stations[k].drive.entersFault)
    (c : FaultCode) : s.requestFault k c = s := by
  unfold State.requestFault
  cases hd : s.stations[k].drive with
  | running => exact absurd (.inl hd) h
  | held r => exact absurd (.inr ⟨r, hd⟩) h
  | stopped => rfl
  | fault _ => rfl

/-- A fault that takes a RUNNING station out sends its HALT (R57). -/
theorem faultOut_running {s : State} {k : StationId} (h : s.stations[k].drive = .running) (c : FaultCode) :
    ((s.requestFault k c).detachFeed k).weighDrain k =
      s.takenOut k (s.stations[k].out (.fault c) s.stations[k].done)
        (s.links[k].rewind.placeHalt (faultHalt c)) := by
  rw [← enterFault_detach]
  unfold State.requestFault
  rw [h]

/-- A fault that takes a HELD station out sends no HALT (R57). -/
theorem faultOut_held {s : State} {k : StationId} {r : HoldReason} (h : s.stations[k].drive = .held r)
    (c : FaultCode) : ((s.requestFault k c).detachFeed k).weighDrain k =
      s.takenOut k (s.stations[k].out (.fault c) s.stations[k].done)
        (s.links[k].rewind.placeHalt none) := by
  rw [← enterFault_detach]
  unfold State.requestFault
  rw [h]

/-- A fault of a station that is STOPPED or in FAULT moves its feed alone (R40). -/
theorem faultOut_other {s : State} {k : StationId} (h : ¬s.stations[k].drive.entersFault)
    (hfed : s.stations[k].feed = .live ∨ s.stations[k].feed = .catchup) (c : FaultCode) :
    ((s.requestFault k c).detachFeed k).weighDrain k =
      s.takenOut k (s.stations[k].out s.stations[k].drive s.stations[k].send) s.links[k] := by
  rw [requestFault_other h, detachFeed_fed hfed]
  unfold Station.out
  rw [if_pos hfed]

theorem faultOut_unfed {s : State} {k : StationId} (h : ¬s.stations[k].drive.entersFault)
    (hfed : ¬(s.stations[k].feed = .live ∨ s.stations[k].feed = .catchup)) (c : FaultCode) :
    ((s.requestFault k c).detachFeed k).weighDrain k =
      { s with links := s.links.set k (s.links[k].drained s.stations[k]) } := by
  rw [requestFault_other h, detachFeed_unfed hfed]

/-! ### A travel fault (R40) -/

/-- A LIVE station that a travel fault has taken out, with its drive, send and link as given. -/
def State.travelled (s : State) (k : StationId) (d : Drive) (q : Seq) (l : Link) : State :=
  { s.moved k { s.stations[k] with feed := .detached, drive := d, send := q } l with
    writer := { s.writer with owed := s.writer.owed.plus (.station k) (eventBit k) } }

theorem takenOut_out_live {s : State} {k : StationId} (h : s.stations[k].feed = .live) (d : Drive) (q : Seq)
    (l : Link) : s.takenOut k (s.stations[k].out d q) l = s.travelled k d q l := by
  rw [takenOut_live h]
  unfold Station.out
  rw [if_pos (.inl h)]
  rfl

theorem travelFault_running {s : State} {k : StationId} (hf : s.stations[k].feed = .live)
    (hd : s.stations[k].drive = .running) : s.travelFault k =
      s.travelled k (.fault .travel) s.stations[k].done (s.links[k].rewind.placeHalt (some 20#8)) :=
  (faultOut_running hd .travel).trans (takenOut_out_live hf ..)

theorem travelFault_held {s : State} {k : StationId} {r : HoldReason} (hf : s.stations[k].feed = .live)
    (hd : s.stations[k].drive = .held r) : s.travelFault k =
      s.travelled k (.fault .travel) s.stations[k].done (s.links[k].rewind.placeHalt none) :=
  (faultOut_held hd .travel).trans (takenOut_out_live hf ..)

theorem travelFault_other {s : State} {k : StationId} (hf : s.stations[k].feed = .live)
    (hd : ¬s.stations[k].drive.entersFault) : s.travelFault k =
      s.travelled k s.stations[k].drive s.stations[k].send s.links[k] :=
  (faultOut_other hd (.inl hf) .travel).trans (takenOut_out_live hf ..)

/-! ### The posts that remain (R40) -/

theorem commitNext_passed {v : State} {k : StationId} (p : ProcTxn) (rest : List StationId)
    (h : v.stations[k].feed ≠ .live) : commitNext p (k :: rest) v = commitNext p rest v := if_neg h

theorem commitNext_copy {v : State} {k : StationId} {copy : Record} (p : ProcTxn) (rest : List StationId)
    (h : v.stations[k].feed = .live) (hc : transform v.shadows.stations[k] v.job.holders = some copy) :
    commitNext p (k :: rest) v = v.startWork p
      (.postWrite k (ringSlotAddr v.stations[k] v.stations[k].post) copy rest) := by
  unfold commitNext
  rw [if_pos h, hc]

theorem commitNext_travel {v : State} {k : StationId} (p : ProcTxn) (rest : List StationId)
    (h : v.stations[k].feed = .live) (hc : transform v.shadows.stations[k] v.job.holders = none) :
    commitNext p (k :: rest) v = commitNext p rest (v.travelFault k) := by
  rw [commitNext, if_pos h, hc]

/-! ### The work in progress does not show in what follows -/

theorem joinLive_setProc (s : State) (x : ProcPort) (k : StationId) :
    State.joinLive { s with proc := x } k = { s.joinLive k with proc := x } := by
  unfold State.joinLive
  show (if s.stations[k].feed = .catchup ∧ s.stations[k].post = s.job.frontier ∧ s.job.inFlight = false
    then _ else _) = _
  split <;> rfl

theorem joinFold_setProc (x : ProcPort) : ∀ (l : List StationId) (s : State),
    l.foldl State.joinLive { s with proc := x } = { l.foldl State.joinLive s with proc := x }
  | [], _ => rfl
  | k :: l, s => by
    rw [List.foldl_cons, List.foldl_cons, joinLive_setProc, joinFold_setProc x l]

theorem insertSync_setProc (s : State) (x : ProcPort) :
    insertSync { s with proc := x } = { insertSync s with proc := x } := by
  unfold insertSync
  cases recSync s.job.holders <;> rfl

theorem oweEnd_setProc (s : State) (x : ProcPort) :
    oweEnd { s with proc := x } = { oweEnd s with proc := x } := by
  unfold oweEnd
  show (if recKind s.job.holders = some .endJob then _ else _) = _
  split <;> rfl

theorem answer_setProc (s : State) (x : ProcPort) (a : ProcAnswer) :
    State.answer { s with proc := x } a = s.answer a := rfl

theorem commitEnd_setProc (s : State) (x : ProcPort) : commitEnd { s with proc := x } = commitEnd s := by
  unfold commitEnd
  rw [insertSync_setProc, oweEnd_setProc]
  generalize oweEnd (insertSync s) = t
  show (joinAll { t.setJob (committedJob t.job) with proc := x }).answer (.done []) = _
  unfold joinAll
  rw [joinFold_setProc, answer_setProc]

theorem travelFault_setProc {s : State} {k : StationId} (x : ProcPort) (h : s.stations[k].feed = .live) :
    State.travelFault { s with proc := x } k = { s.travelFault k with proc := x } := by
  have hset : ∀ (d : Drive) (q : Seq) (l : Link), s.travelFault k = s.travelled k d q l →
      State.travelFault { s with proc := x } k = State.travelled { s with proc := x } k d q l →
      State.travelFault { s with proc := x } k = { s.travelFault k with proc := x } :=
    fun d q l e e' => e'.trans (congrArg (fun t : State => { t with proc := x }) e.symm)
  by_cases hd : s.stations[k].drive.entersFault
  · rcases hd with hd | ⟨r, hd⟩
    · exact hset _ _ _ (travelFault_running h hd) (travelFault_running (s := { s with proc := x }) h hd)
    · exact hset _ _ _ (travelFault_held h hd) (travelFault_held (s := { s with proc := x }) h hd)
  · exact hset _ _ _ (travelFault_other h hd) (travelFault_other (s := { s with proc := x }) h hd)

/-- The posts that remain are handled the same, whatever the port carried before them. -/
theorem commitNext_setProc (p : ProcTxn) (x : ProcPort) : ∀ (rest : List StationId) (s : State),
    commitNext p rest { s with proc := x } = commitNext p rest s
  | [], s => commitEnd_setProc s x
  | k :: rest, s => by
    by_cases h : s.stations[k].feed = .live
    · cases hc : transform s.shadows.stations[k] s.job.holders with
      | none =>
        rw [commitNext_travel p rest h hc, commitNext_travel (v := { s with proc := x }) p rest h hc,
          travelFault_setProc x h, commitNext_setProc p x rest]
      | some copy =>
        rw [commitNext_copy p rest h hc, commitNext_copy (v := { s with proc := x }) p rest h hc]
        rfl
    · rw [commitNext_passed p rest h, commitNext_passed (v := { s with proc := x }) p rest h,
        commitNext_setProc p x rest]

end Sys2Proof.Machine
end

section
/-! The answers that a commit waits for: the journal write's, and each ring write's (R39 to R42). -/

namespace Sys2Proof.Machine

/-! ### The answer of the journal write -/

/-- The marks that a report adds show in no part of a commit's end. -/
theorem CommitEnds.reported {s t : State} (b : State) (h : CommitEnds s t) : CommitEnds s (report b t) := by
  obtain ⟨hframe, hrest⟩ := h
  exact ⟨congrArg (fun u : State => { u with writer := (report b t).writer }) hframe, hrest⟩

section
variable {s : State} {p : ProcTxn} {fanOut : List StationId} {m : MemTxn}
  (hcur : s.proc.current = some ⟨p, .journalWrite fanOut⟩)
  (hport : s.port.inFlight = some ⟨.transit, m⟩)
include hcur hport

theorem journalWriteAnswer_ok : journalWriteAnswer .ok s = commitNext p fanOut s.freed := by
  unfold journalWriteAnswer
  rw [inFlightFor_eq hport, hcur]
  rfl

theorem journalWriteAnswer_fault :
    journalWriteAnswer .fault s = commitFail (frontierAddr s.job) s.freed := by
  unfold journalWriteAnswer
  rw [inFlightFor_eq hport, hcur]
  rfl

/-- The journal write answered OK begins the posts (R40). -/
theorem journalWriteOk_gives (hp : s.porst = false) :
    AnswerGives .journalWriteAnswer .ok s (report s (commitNext p fanOut s.freed)) := by
  rw [← journalWriteAnswer_ok hcur hport]
  exact answerGives_of (fun _ => rfl) hp

end

/-- The work in progress shows in no record, and a transit transaction in flight makes no request. -/
theorem deferred_report_setWork {s : State} {p : ProcTxn} {w x : TransitWork}
    (hcur : s.proc.current = some ⟨p, w⟩) (late : List Requester) (t : State) :
    (report s t).deferred late s =
      (report { s with proc := ⟨some ⟨p, x⟩, s.proc.answer⟩ } t).deferred late
        { s with proc := ⟨some ⟨p, x⟩, s.proc.answer⟩ } := by
  have hstands : ∀ r, standing { s with proc := ⟨some ⟨p, x⟩, s.proc.answer⟩ } r = standing s r := fun r => by
    cases r with
    | transit => unfold standing; rw [hcur]; rfl
    | commandJob | commandStation _ | status | drain _ | replay => rfl
  have hrep : report { s with proc := ⟨some ⟨p, x⟩, s.proc.answer⟩ } t = report s t := rfl
  unfold State.deferred
  rw [hrep]
  simp only [hstands]

/-- A station no longer LIVE is passed over, as if it had not been in the fan-out set (R40). -/
theorem journalWriteOk_passed {s : State} {p : ProcTxn} {k : StationId} {rest : List StationId} {m : MemTxn}
    (hp : s.porst = false) (hcur : s.proc.current = some ⟨p, .journalWrite (k :: rest)⟩)
    (hport : s.port.inFlight = some ⟨.transit, m⟩) (hf : s.stations[k].feed ≠ .live)
    (late : List Requester) :
    exec (.journalWriteAnswer (.current late .ok)) s =
      exec (.journalWriteAnswer (.current late .ok))
        { s with proc := ⟨some ⟨p, .journalWrite rest⟩, s.proc.answer⟩ } := by
  have hsame : commitNext p rest
      (State.freed { s with proc := ⟨some ⟨p, .journalWrite rest⟩, s.proc.answer⟩ }) =
        commitNext p (k :: rest) s.freed :=
    (commitNext_setProc p _ rest s.freed).trans (commitNext_passed (v := s.freed) p rest hf).symm
  have hrest := journalWriteOk_gives
    (s := { s with proc := ⟨some ⟨p, .journalWrite rest⟩, s.proc.answer⟩ }) rfl hport hp late
  rw [hsame, ← deferred_report_setWork hcur] at hrest
  exact (journalWriteOk_gives hcur hport hp late).trans hrest.symm

/-! ### The journal write answered FAULT (R39) -/

/-- The joins owe bits to the stations' records alone. -/
theorem joinFold_owed_other {r : RecordId} (hr : ∀ k : StationId, r ≠ .station k) :
    ∀ (l : List StationId) (s : State),
      (l.foldl State.joinLive s).writer.owed.get r = s.writer.owed.get r
  | [], _ => rfl
  | k :: l, s => by
    rw [List.foldl_cons, joinFold_owed_other hr l, joinLive_owed_get, if_neg fun h => hr k h.1,
      BitVec.or_zero]

theorem joinFold_marks : ∀ (l : List StationId) (s : State),
    (l.foldl State.joinLive s).writer.marks = s.writer.marks
  | [], _ => rfl
  | k :: l, s => by
    have hjoin : (s.joinLive k).writer.marks = s.writer.marks := by
      unfold State.joinLive
      split <;> rfl
    rw [List.foldl_cons, joinFold_marks l, hjoin]

/-- What the joins of the CATCHUP stations level with the frontier leave, once no commit is in flight
(R86). -/
theorem joinAll_level {s : State} (hf : s.job.inFlight = false) (k : StationId) :
    (s.stations[k].feed = .catchup ∧ s.stations[k].post = s.job.frontier →
      (joinAll s).stations[k] = { s.stations[k] with feed := .live }
      ∧ (joinAll s).writer.owed.get (.station k) = s.writer.owed.get (.station k) ||| eventBit k)
    ∧ (¬(s.stations[k].feed = .catchup ∧ s.stations[k].post = s.job.frontier) →
      (joinAll s).stations[k] = s.stations[k]
      ∧ (joinAll s).writer.owed.get (.station k) = s.writer.owed.get (.station k)) := by
  obtain ⟨hst, how, -, -⟩ := joinFold_spec stationOrder s stationOrder_nodup
  unfold joinAll
  refine ⟨fun h => ⟨?_, ?_⟩, fun h => ⟨?_, ?_⟩⟩
  · exact (hst k).trans (if_pos ⟨stationOrder_complete k, h.1, h.2, hf⟩)
  · rw [how, if_pos ⟨stationOrder_complete k, h.1, h.2, hf⟩]
  · exact (hst k).trans (if_neg fun ⟨_, h1, h2, _⟩ => h ⟨h1, h2⟩)
  · rw [how, if_neg fun ⟨_, h1, h2, _⟩ => h ⟨h1, h2⟩, BitVec.or_zero]

theorem joinAll_owed_other (s : State) {r : RecordId} (hr : ∀ k : StationId, r ≠ .station k) :
    (joinAll s).writer.owed.get r = s.writer.owed.get r := by
  unfold joinAll
  exact joinFold_owed_other hr stationOrder s

theorem joinAll_marks (s : State) : (joinAll s).writer.marks = s.writer.marks := by
  unfold joinAll
  exact joinFold_marks stationOrder s

theorem joinAll_frame (s : State) :
    joinAll s = { s with stations := (joinAll s).stations, writer := (joinAll s).writer } := by
  obtain ⟨-, -, -, hframe⟩ := joinFold_spec stationOrder s stationOrder_nodup
  unfold joinAll
  exact hframe

/-- The state in which the stations are tested for joining after a journal write answered FAULT: the error
logged and the assembler emptied (R39). -/
def State.failed (s : State) (addr : Word) : State :=
  { s with
    log := loggedWith s.log ⟨.memFault, .journal, true, addr, s.job.holders[0], none, 0#8⟩
    writer := { s.writer with
      marks := s.writer.marks.set .errorLog true, owed := s.writer.owed.logged s.log }
    job := { s.job with mask := 0#8, holders := zeroRecord, inFlight := false } }

theorem commitFail_eq (s : State) (addr : Word) :
    commitFail addr s = (joinAll (s.failed addr)).answer (.error .memFault) := by
  unfold commitFail
  rw [logError_eq]
  rfl

/-- An error owes its bit to the error log's record alone (R169). -/
theorem logged_get_other (o : Owed) (log : Option LogEntry) {r : RecordId} (h : r ≠ .errorLog) :
    (o.logged log).get r = o.get r := by
  unfold Owed.logged Owed.plus
  split
  · exact Owed.get_set_ne _ _ _ _ h
  · rfl

/-! ### A travel fault's station, and what the posts that remain do after it -/

/-- The posts that remain after a travel fault, by what the station's drive was (R40, R55 to R57). -/
theorem commitNext_travelled {v : State} {k : StationId} (p : ProcTxn) (rest : List StationId)
    (hf : v.stations[k].feed = .live) (hc : transform v.shadows.stations[k] v.job.holders = none) :
    (v.stations[k].drive = .running → commitNext p (k :: rest) v = commitNext p rest
      (v.travelled k (.fault .travel) v.stations[k].done (v.links[k].rewind.placeHalt (some 20#8))))
    ∧ (∀ h, v.stations[k].drive = .held h → commitNext p (k :: rest) v = commitNext p rest
      (v.travelled k (.fault .travel) v.stations[k].done (v.links[k].rewind.placeHalt none)))
    ∧ (¬v.stations[k].drive.entersFault → commitNext p (k :: rest) v = commitNext p rest
      (v.travelled k v.stations[k].drive v.stations[k].send v.links[k])) := by
  have hnext := commitNext_travel p rest hf hc
  refine ⟨fun hd => hnext.trans ?_, fun h hd => hnext.trans ?_, fun hd => hnext.trans ?_⟩
  · rw [travelFault_running hf hd]
  · rw [travelFault_held hf hd]
  · rw [travelFault_other hf hd]

/-- With no station left the commit ends (R41, R42). -/
theorem commitNext_ends (p : ProcTxn) {rest : List StationId} (v : State) (h : rest = []) :
    CommitEnds v (commitNext p rest v) := by
  rw [h]
  exact commitEnd_spec v

theorem report_startWorkFreed (s : State) (p : ProcTxn) (w : TransitWork) :
    report s (s.freed.startWork p w) = s.freed.startWork p w :=
  report_of_shown rfl rfl rfl rfl rfl rfl rfl rfl

/-- Settles O30, by the answer and by the station that is next. -/
theorem journalWriteAnswered : Obligations.JournalWriteAnswered := by
  intro s p fanOut m hp hcur hport again joins
  refine ⟨?_, fun hnone => ?_, fun k rest hcons => ?_⟩
  · have hgives : AnswerGives .journalWriteAnswer .fault s
        (report s (journalWriteAnswer .fault s)) := answerGives_of (fun _ => rfl) hp
    rw [journalWriteAnswer_fault hcur hport, commitFail_eq] at hgives
    have hframe := joinAll_frame (s.freed.failed (frontierAddr s.job))
    have hmarks := joinAll_marks (s.freed.failed (frontierAddr s.job))
    have hlevel := joinAll_level (s := s.freed.failed (frontierAddr s.job)) rfl
    have howed := fun r => joinAll_owed_other (s.freed.failed (frontierAddr s.job)) (r := r)
    have hlogged : ∀ r ≠ RecordId.errorLog,
        (s.freed.failed (frontierAddr s.job)).writer.owed.get r = s.writer.owed.get r :=
      fun r => logged_get_other _ _
    generalize joinAll (s.freed.failed (frontierAddr s.job)) = joined at *
    refine ⟨_, hgives, rfl, congrArg State.job hframe, congrArg State.log hframe, fun k => ?_,
      howed .errorLog nofun, (howed .job nofun).trans (hlogged _ nofun),
      (howed .summary nofun).trans (hlogged _ nofun), ?_, ?_⟩
    · have hk := hlevel k
      rw [hlogged (.station k) nofun] at hk
      exact hk
    · rw [report_marks_get]
      show (joined.writer.marks.get .errorLog || _) = true
      rw [hmarks]
      exact Bool.or_eq_true_iff.mpr (.inl (Marks.get_set_self s.writer.marks .errorLog true))
    · exact congrArg (fun u : State => { u with
        proc := ⟨none, some (.error .memFault)⟩
        job := joined.job
        log := joined.log
        writer := (report s (joined.answer (.error .memFault))).writer }) hframe
  · rw [hnone] at hcur
    exact ⟨_, journalWriteOk_gives hcur hport hp, (commitEnd_spec s.freed).reported s⟩
  · rw [hcons] at hcur
    have hgives := journalWriteOk_gives hcur hport hp
    refine ⟨journalWriteOk_passed hp hcur hport, fun copy hf hc => ?_, fun hf hc => ?_⟩
    · rw [commitNext_copy (v := s.freed) p rest hf hc, report_startWorkFreed] at hgives
      exact hgives
    · obtain ⟨hrun, hheld, hother⟩ := commitNext_travelled (v := s.freed) p rest hf hc
      exact ⟨fun hd => ⟨hrun hd ▸ hgives, commitNext_ends p _⟩,
        fun h hd => ⟨hheld h hd ▸ hgives, commitNext_ends p _⟩,
        fun hd => ⟨hother hd ▸ hgives, commitNext_ends p _⟩⟩

end Sys2Proof.Machine
end

section
/-! The answer of a ring write (R40): the post that advances, and the station that a fault takes out. -/

namespace Sys2Proof.Machine

/-- A ring write answered OK while the station is LIVE (R18, R49). -/
def Station.posted (st : Station) (copy : Record) : Station :=
  { st with
    post := st.post + 1#16
    counters := { st.counters with
      clamps := if recClamped copy = true ∨ recFeedClamp copy = true then
        satInc st.counters.clamps else st.counters.clamps } }

theorem countClamp_advancePost (s : State) (k : StationId) (copy : Record) :
    (s.advancePost k).countClamp k copy = s.setStation k (s.stations[k].posted copy) := by
  have hclamped : copyClamped copy = true ↔ recClamped copy = true ∨ recFeedClamp copy = true :=
    Bool.or_eq_true_iff
  unfold State.countClamp State.setCounters State.advancePost Station.posted
  rw [setStation_get]
  by_cases h : copyClamped copy = true
  · rw [if_pos h, if_pos (hclamped.mp h)]
    simp only [State.setStation, vector_set_set]
  · rw [if_neg h, if_neg (fun hc => h (hclamped.mpr hc))]

/-- A LIVE station's ring write answered OK moves its post, and weighs the staging condition. -/
theorem postOk_live {s : State} {k : StationId} (h : s.stations[k].feed = .live) (copy : Record) :
    postOk k copy s = { s with
      stations := s.stations.set k (s.stations[k].posted copy)
      links := s.links.set k (s.links[k].drained (s.stations[k].posted copy)) } := by
  unfold postOk
  rw [if_pos h, countClamp_advancePost, weighDrain_eq, setStation_get]
  rfl

theorem postOk_other {s : State} {k : StationId} (h : s.stations[k].feed ≠ .live) (copy : Record) :
    postOk k copy s = s := if_neg h

/-- The state in which a ring write's FAULT has been logged (R40, R169). -/
def State.postLogged (s : State) (k : StationId) (addr : Word) (copy : Record) : State :=
  { s with
    log := loggedWith s.log ⟨.memFault, .post, true, addr, copy[0], some k, 0#8⟩
    writer := { s.writer with
      marks := s.writer.marks.set .errorLog true, owed := s.writer.owed.logged s.log } }

theorem postFault_eq (s : State) (k : StationId) (addr : Word) (copy : Record) :
    postFault k addr copy s =
      (((s.postLogged k addr copy).requestFault k .memory).detachFeed k).weighDrain k := by
  unfold postFault
  rw [logError_eq]
  rfl

/-- The replay engine's read is not the transaction that a transit answer ends. -/
theorem overtakenTurn_logged {s : State} {m : MemTxn} (h : s.port.inFlight = some ⟨.transit, m⟩)
    (k : StationId) (addr : Word) (copy : Record) :
    (s.freed.postLogged k addr copy).overtakenTurn k = s.overtakenTurn k := by
  have hs : inFlightFor s .replay = false := by
    unfold inFlightFor
    rw [h]
    rfl
  unfold State.overtakenTurn
  rw [hs, show inFlightFor (s.freed.postLogged k addr copy) .replay = false from rfl]
  rfl

/-- The station that a ring write's FAULT has taken out, as one update (R40, R79, R82). -/
theorem takenOut_logged {s : State} {m : MemTxn} (h : s.port.inFlight = some ⟨.transit, m⟩) (k : StationId)
    (addr : Word) (copy : Record) (f : Station) (l : Link) :
    (s.freed.postLogged k addr copy).takenOut k f l =
      { (s.freed.postLogged k addr copy).moved k f l with
        replay := if s.stations[k].feed = .catchup then { s.replay with turn := s.overtakenTurn k }
          else s.replay
        writer := { (s.freed.postLogged k addr copy).writer with
          owed := (s.writer.owed.logged s.log).plus (.station k) (eventBit k) } } := by
  unfold State.takenOut
  rw [overtakenTurn_logged h]
  rfl

/-- A ring write's answer, with the posts that go on after it (R40). -/
theorem postWriteAnswer_gives {s : State} {p : ProcTxn} {k : StationId} {addr : Word} {copy : Record}
    {rest : List StationId} {m : MemTxn} (hp : s.porst = false)
    (hcur : s.proc.current = some ⟨p, .postWrite k addr copy rest⟩)
    (hport : s.port.inFlight = some ⟨.transit, m⟩) :
    AnswerGives .postWriteAnswer .ok s (report s (commitNext p rest (postOk k copy s.freed)))
    ∧ AnswerGives .postWriteAnswer .fault s
      (report s (commitNext p rest (postFault k addr copy s.freed))) := by
  have hok : postWriteAnswer .ok s = commitNext p rest (postOk k copy s.freed) := by
    unfold postWriteAnswer
    rw [inFlightFor_eq hport, hcur]
    rfl
  have hfault : postWriteAnswer .fault s = commitNext p rest (postFault k addr copy s.freed) := by
    unfold postWriteAnswer
    rw [inFlightFor_eq hport, hcur]
    rfl
  rw [← hok, ← hfault]
  exact ⟨answerGives_of (fun _ => rfl) hp, answerGives_of (fun _ => rfl) hp⟩

/-- Settles O31: the answers by the station's feed and drive, and the posts that remain by the station
that is next. -/
theorem postWriteAnswered : Obligations.PostWriteAnswered := by
  refine ⟨fun s p k addr copy rest m hp hcur hport => ?_, fun v p k rest => ?_⟩
  · obtain ⟨hok, hfault⟩ := postWriteAnswer_gives hp hcur hport
    rw [postFault_eq] at hfault
    have hout := takenOut_logged hport k addr copy
    refine ⟨fun hf => ⟨?_, commitNext_ends p _⟩, fun hf => ⟨?_, commitNext_ends p _⟩,
      fun hd => ⟨?_, commitNext_ends p _⟩, fun h hd => ⟨?_, commitNext_ends p _⟩,
      fun hd hfed => ⟨?_, commitNext_ends p _⟩, fun hd hfed => ⟨?_, commitNext_ends p _⟩⟩
    · rw [postOk_live (s := s.freed) hf] at hok
      exact hok
    · rw [postOk_other (s := s.freed) hf] at hok
      exact hok
    · rw [faultOut_running (s := s.freed.postLogged k addr copy) hd, hout] at hfault
      exact hfault
    · rw [faultOut_held (s := s.freed.postLogged k addr copy) hd, hout] at hfault
      exact hfault
    · rw [faultOut_other (s := s.freed.postLogged k addr copy) hd hfed, hout] at hfault
      exact hfault
    · rw [faultOut_unfed (s := s.freed.postLogged k addr copy) hd hfed] at hfault
      exact hfault
  · refine ⟨commitNext_passed p rest, fun copy hf hc => commitNext_copy p rest hf hc, fun hf hc => ?_⟩
    exact commitNext_travelled p rest hf hc

end Sys2Proof.Machine
end

section
/-! The order of sequence numbers at its edge: a gate entry 32767 before the frontier, whose only member
has completed the record that the commit in flight is about to add (R3, R41, R88, R90). -/

namespace Sys2Proof.Machine

/-- A LIVE station that has received, sent and completed the record being committed, whose sequence number
is 32767. -/
def aheadStation : Station :=
  { Station.reset with
    feed := .live, drive := .running, capacity := 16
    post := 32768#16, send := 32768#16, done := 32768#16 }

/-- The commit of record 32767 waits for its last ring write, to a station that has been released since.
Station 0 is ahead by that record, and a gate entry stands for record 0: the frontier is 32767 after it,
and the done pointer of station 0 is 32768 from it, which is not after it (R3). -/
def farGate : State :=
  { State.reset with
    pending := [.postWriteAnswer (.current [] .ok)]
    porst := false
    job := { Job.reset with state := .opened, slots := 64, frontier := 32767#16, inFlight := true }
    proc := ⟨some ⟨.read 0#30 0, .postWrite 1 0#32 zeroRecord []⟩, none⟩
    port := { Port.reset with inFlight := some ⟨.transit, ⟨.post, 0#32, .read 0⟩⟩ }
    stations := State.reset.stations.set (0 : StationId) aheadStation
    gate := ⟨[⟨0#16, 0#6⟩], 1#6⟩ }

theorem farGate_link (k : StationId) : farGate.links[k] = Link.reset := reset_link k

theorem farGate_station (k : StationId) :
    farGate.stations[k] = if k = 0 then aheadStation else Station.reset := by
  revert k
  decide

theorem farGate_toPost : toPost farGate = some [1] := rfl

theorem farGate_feedsFollowFrontier : FeedsFollowFrontier farGate := by
  refine ⟨rfl, fun l hl => ?_, fun k => ?_⟩
  · obtain rfl := Option.some.inj (farGate_toPost.symm.trans hl)
    decide
  · rw [farGate_station]
    by_cases hk : k = 0
    · subst hk
      refine ⟨fun _ h => (nomatch h), fun l _ hl => ?_, fun h => ?_⟩
      · obtain rfl := Option.some.inj (farGate_toPost.symm.trans hl)
        exact ⟨fun h => absurd h (by decide), fun _ => ⟨by decide, fun p h => nomatch h⟩⟩
      · rcases h with h | h <;> cases h
    · rw [if_neg hk]
      exact ⟨fun h => (nomatch h), fun _ h => (nomatch h), fun h => by rcases h with h | h <;> cases h⟩

theorem farGate_gateAscends : GateAscends farGate := by
  refine ⟨List.pairwise_singleton _ _, fun e he => ?_, fun e he => ?_, fun e he => ?_⟩
  · obtain rfl := List.mem_singleton.mp he
    decide
  · obtain rfl := List.mem_singleton.mp he
    decide
  · obtain rfl := Option.some.inj he
    exact ⟨0, by decide, by decide⟩

theorem farGate_sequencesInOrder : SequencesInOrder farGate := by
  have hoff : ∀ k : StationId, farGate.stations[k].feed = .off → farGate.stations[k] = Station.reset := by
    decide
  refine ⟨by unfold GateHoldsMembers; decide, fun k hk => ?_, by unfold SizesFit; decide,
    by unfold PointersInOrder; decide, ⟨fun _ _ => nofun, fun k d q hk => ?_, fun _ => by decide⟩,
    farGate_feedsFollowFrontier, fun _ h => (nomatch h), fun k => ?_, farGate_gateAscends⟩
  · rw [hoff k hk, farGate_link]
    exact ⟨rfl, rfl, rfl, fun _ h => (nomatch h), fun _ h => (nomatch h)⟩
  · rw [farGate_station] at hk
    split at hk <;> cases hk
  · rw [farGate_link]
    exact ⟨fun _ _ h => (nomatch h), fun _ h => (nomatch h), fun _ => rfl, fun _ h => (nomatch h),
      fun _ h => (nomatch h), fun _ _ h => (nomatch h)⟩

/-- The ring write's answer ends the commit: the frontier advances and the entry stays. -/
theorem farGate_step : ∃ t, step farGate = .next t ∧ t.job.frontier = 32768#16
    ∧ t.gate.entries = [⟨0#16, 0#6⟩] := ⟨_, rfl, by decide, by decide⟩

/-- Refutes O58: the frontier is then 32768 from the entry, so the entry is not before it (R3). The state
before meets the whole invariant, since nothing in it bounds an entry's distance to the frontier when the
only member that has not completed it is itself ahead of the frontier. -/
theorem not_stepsKeepSequenceOrder : ¬ Obligations.StepsKeepSequenceOrder := by
  intro h
  obtain ⟨t, ht, hf, he⟩ := farGate_step
  obtain ⟨-, -, -, -, -, -, -, -, -, hbefore, -⟩ := h farGate t farGate_sequencesInOrder ht
  have hlast := hbefore ⟨0#16, 0#6⟩ (by rw [he]; exact List.mem_singleton.mpr rfl)
  rw [hf] at hlast
  exact absurd hlast (by decide)

end Sys2Proof.Machine
end

section
/-! Drives at rest (R50, R56, R70, R79): what a change of one station and its link has to keep, and the
shared operations that keep it. -/

namespace Sys2Proof.Machine

/-! ### One station and its link -/

/-- STOPPED exactly when OFF (R50), for one station. -/
def Station.StoppedOff (st : Station) : Prop := st.drive = .stopped ↔ st.feed = .off

/-- Nothing under way outside RUNNING, and send at done (R56), for one station and its link. -/
def Station.AtRest (st : Station) (l : Link) : Prop :=
  st.drive ≠ .running → l.outstanding = none ∧ l.ackTimer = none ∧ l.retry = 0 ∧ l.fullWait = false
    ∧ st.send = st.done

/-- The pointers level, nothing staged and no drain read in force while OFF (R50, R70), for one station and
its link. -/
def Station.EmptyOff (st : Station) (l : Link) : Prop :=
  st.feed = .off → st.post = st.done ∧ st.send = st.done ∧ l.staging = .empty
    ∧ ∀ d, l.drain = some d → d.marked = true

/-- No turn for station k can still post to it (R79). -/
def NoOpenTurn (turn : Option ReplayTurn) (k : StationId) : Prop :=
  ∀ t, turn = some t → t.station = k → t.copy = none → t.marked = true

theorem offHoldsNothing_iff (s : State) : OffHoldsNothing s ↔ ∀ k : StationId,
    s.stations[k].EmptyOff s.links[k]
      ∧ (s.stations[k].feed = .off → NoOpenTurn s.replay.turn k) := by
  refine forall_congr' fun k => ⟨fun h => ⟨fun hf => ?_, fun hf => ?_⟩, fun ⟨h, ht⟩ hf => ?_⟩
  · obtain ⟨hpost, hsend, hstage, hdrain, -⟩ := h hf
    exact ⟨hpost, hsend, hstage, hdrain⟩
  · obtain ⟨-, -, -, -, hturn⟩ := h hf
    exact hturn
  · obtain ⟨hpost, hsend, hstage, hdrain⟩ := h hf
    exact ⟨hpost, hsend, hstage, hdrain, ht hf⟩

/-- A station and its link take new values that meet the conditions where the old ones did, and the
station does not become OFF. -/
structure RestKept (st : Station) (l : Link) (st' : Station) (l' : Link) : Prop where
  stopped : st.StoppedOff → st'.StoppedOff
  rests : st.AtRest l → st'.AtRest l'
  empty : st.EmptyOff l → st'.EmptyOff l'
  feed : st'.feed = .off → st.feed = .off

theorem RestKept.refl (st : Station) (l : Link) : RestKept st l st l := ⟨id, id, id, id⟩

/-- What the conditions read of a link. -/
def Link.SameSegWork (l l' : Link) : Prop :=
  l'.staging = l.staging ∧ l'.drain = l.drain ∧ l'.outstanding = l.outstanding
    ∧ l'.ackTimer = l.ackTimer ∧ l'.retry = l.retry ∧ l'.fullWait = l.fullWait

theorem RestKept.of_sameSegWork (st : Station) {l l' : Link} (h : l.SameSegWork l') :
    RestKept st l st l' := by
  obtain ⟨h1, h2, h3, h4, h5, h6⟩ := h
  refine ⟨id, fun hr => ?_, fun he => ?_, id⟩
  · unfold Station.AtRest
    rw [h3, h4, h5, h6]
    exact hr
  · unfold Station.EmptyOff
    rw [h1, h2]
    exact he

/-- What the conditions read of a station. -/
def Station.SamePlace (st st' : Station) : Prop :=
  st'.feed = st.feed ∧ st'.drive = st.drive ∧ st'.post = st.post ∧ st'.send = st.send
    ∧ st'.done = st.done

theorem RestKept.of_samePlace {st st' : Station} (l : Link) (h : st.SamePlace st') :
    RestKept st l st' l := by
  obtain ⟨h1, h2, h3, h4, h5⟩ := h
  refine ⟨fun hs => ?_, fun hr => ?_, fun he => ?_, fun hf => h1 ▸ hf⟩
  · unfold Station.StoppedOff
    rw [h1, h2]
    exact hs
  · unfold Station.AtRest
    rw [h2, h4, h5]
    exact hr
  · unfold Station.EmptyOff
    rw [h1, h3, h4, h5]
    exact he

/-- A change of the link's SEG work that leaves the staging buffer and the drain read, on a station that
must be RUNNING. -/
theorem RestKept.of_running {st : Station} {l l' : Link} (hr : st.AtRest l → st.drive = .running)
    (h : l'.staging = l.staging ∧ l'.drain = l.drain) : RestKept st l st l' := by
  refine ⟨id, fun hl hd => absurd (hr hl) hd, fun he => ?_, id⟩
  unfold Station.EmptyOff
  rw [h.1, h.2]
  exact he

/-- A link with a SEG outstanding or its ack timer running is that of a RUNNING drive. -/
theorem running_of_busy {st : Station} {l : Link} (h : l.outstanding ≠ none ∨ l.ackTimer ≠ none)
    (hr : st.AtRest l) : st.drive = .running := by
  by_contra hd
  obtain ⟨hout, htimer, -⟩ := hr hd
  rcases h with h | h
  · exact h hout
  · exact h htimer

theorem placeHalt_segWork (l : Link) (h : Option Byte) : l.SameSegWork (l.placeHalt h) := by
  unfold Link.placeHalt
  split <;> exact ⟨rfl, rfl, rfl, rfl, rfl, rfl⟩

/-- An entry into HELD or FAULT, and the rewind (R56). -/
theorem RestKept.of_entry (st : Station) (l : Link) {d : Drive} (h : Option Byte)
    (hst : st.drive ≠ .stopped) (hd : d ≠ .stopped) :
    RestKept st l { st with drive := d, send := st.done } (l.rewind.placeHalt h) := by
  obtain ⟨h1, h2, h3, h4, h5, h6⟩ := placeHalt_segWork l.rewind h
  refine ⟨fun hs => ?_, fun _ _ => ⟨h3, h4, h5, h6, rfl⟩, fun he hf => ?_, id⟩
  · exact iff_of_false hd fun hf => hst (hs.mpr hf)
  · obtain ⟨hpost, -, -, -⟩ := he hf
    refine ⟨hpost, rfl, h1, fun r hr => ?_⟩
    obtain ⟨a, -, rfl⟩ := Option.map_eq_some_iff.mp (h2.symm.trans hr)
    rfl

/-- A drain read is begun only with send before post, which is not so of a station that is OFF (R111). -/
theorem RestKept.of_drained (st : Station) (l : Link) : RestKept st l st (l.drained st) := by
  unfold Link.drained
  split
  · rename_i h
    obtain ⟨-, hbefore, -, -⟩ := h
    refine ⟨id, id, fun he hf => ?_, id⟩
    obtain ⟨hpost, hsend, -, -⟩ := he hf
    rw [hsend, hpost, seqBefore_self] at hbefore
    cases hbefore
  · exact .refl st l

/-! ### From one station to the state -/

/-- From `s` to `t` each of the three conditions on the stations is kept. -/
structure KeepsRest (s t : State) : Prop where
  stopped : StoppedExactlyOff s → StoppedExactlyOff t
  rests : RestsOutsideRunning s → RestsOutsideRunning t
  off : OffHoldsNothing s → OffHoldsNothing t

theorem KeepsRest.refl (s : State) : KeepsRest s s := ⟨id, id, id⟩

theorem KeepsRest.trans {s t u : State} (h : KeepsRest s t) (g : KeepsRest t u) : KeepsRest s u where
  stopped := g.stopped ∘ h.stopped
  rests := g.rests ∘ h.rests
  off := g.off ∘ h.off

/-- Every station keeps the conditions, and a turn that could still post to an OFF station did so before. -/
theorem KeepsRest.of_kept {s t : State}
    (h : ∀ k : StationId, RestKept s.stations[k] s.links[k] t.stations[k] t.links[k])
    (ht : ∀ k : StationId, s.stations[k].feed = .off → NoOpenTurn s.replay.turn k →
      NoOpenTurn t.replay.turn k) : KeepsRest s t where
  stopped hs k := (h k).stopped (hs k)
  rests hs k := (h k).rests (hs k)
  off hs := by
    rw [offHoldsNothing_iff] at hs ⊢
    refine fun k => ⟨(h k).empty (hs k).1, fun hf => ?_⟩
    have hoff := (h k).feed hf
    exact ht k hoff ((hs k).2 hoff)

/-- Nothing of the stations, the links and the turn changes. -/
theorem KeepsRest.still {s t : State} (hs : t.stations = s.stations) (hl : t.links = s.links)
    (ht : t.replay.turn = s.replay.turn) : KeepsRest s t := by
  refine .of_kept (fun k => ?_) fun k _ hno => ?_
  · rw [hs, hl]
    exact .refl ..
  · rw [ht]
    exact hno

/-- Station k and its link change. -/
theorem KeepsRest.of_station {s t : State} {k : StationId} {st : Station} {l : Link}
    (h : RestKept s.stations[k] s.links[k] st l) (hs : t.stations = s.stations.set k st)
    (hl : t.links = s.links.set k l) (ht : t.replay.turn = s.replay.turn) : KeepsRest s t := by
  refine .of_kept (fun j => ?_) fun j _ hno => ?_
  · rw [hs, hl]
    by_cases hj : j = k
    · subst hj
      rw [get_set_self, get_set_self]
      exact h
    · rw [get_set_ne _ _ _ _ hj, get_set_ne _ _ _ _ hj]
      exact .refl ..
  · rw [ht]
    exact hno

/-- Station k and its link change, where no station that holds nothing while OFF can be station k while it
is OFF. -/
theorem KeepsRest.changed {s₀ s t : State} {k : StationId} {st : Station} {l : Link}
    (h₀ : KeepsRest s₀ s) (hon : OffHoldsNothing s₀ → s.stations[k].feed ≠ .off)
    (hs : t.stations = s.stations.set k st) (hl : t.links = s.links.set k l)
    (ht : t.replay.turn = s.replay.turn) (hfeed : st.feed = s.stations[k].feed)
    (stopped : s.stations[k].StoppedOff → st.StoppedOff)
    (rests : s.stations[k].AtRest s.links[k] → st.AtRest l) : KeepsRest s₀ t := by
  have hself : t.stations[k] = st ∧ t.links[k] = l := by
    rw [hs, hl]
    exact ⟨get_set_self .., get_set_self ..⟩
  have hother : ∀ j : StationId, j ≠ k → t.stations[j] = s.stations[j] ∧ t.links[j] = s.links[j] :=
    fun j hj => by
      rw [hs, hl]
      exact ⟨get_set_ne _ _ _ _ hj, get_set_ne _ _ _ _ hj⟩
  refine ⟨fun h j => ?_, fun h j => ?_, fun h => ?_⟩
  · by_cases hj : j = k
    · rw [hj, hself.1]
      exact stopped (h₀.stopped h k)
    · rw [(hother j hj).1]
      exact h₀.stopped h j
  · by_cases hj : j = k
    · rw [hj, hself.1, hself.2]
      exact rests (h₀.rests h k)
    · rw [(hother j hj).1, (hother j hj).2]
      exact h₀.rests h j
  · have hk : st.feed ≠ .off := fun e => hon h (hfeed.symm.trans e)
    exact (KeepsRest.of_station ⟨stopped, rests, fun _ e => absurd e hk, fun e => absurd e hk⟩ hs hl
      ht).off (h₀.off h)

theorem setStation_rest {s : State} {k : StationId} {x : Station}
    (h : RestKept s.stations[k] s.links[k] x s.links[k]) : KeepsRest s (s.setStation k x) :=
  .of_station h rfl (vector_set_get ..).symm rfl

theorem setStation_same_rest (s : State) (k : StationId) {x : Station}
    (h : s.stations[k].SamePlace x) : KeepsRest s (s.setStation k x) :=
  setStation_rest (.of_samePlace _ h)

theorem setLink_rest {s : State} {k : StationId} {x : Link}
    (h : RestKept s.stations[k] s.links[k] s.stations[k] x) : KeepsRest s (s.setLink k x) :=
  .of_station h (vector_set_get ..).symm rfl rfl

theorem setLink_same_rest (s : State) (k : StationId) {x : Link} (h : s.links[k].SameSegWork x) :
    KeepsRest s (s.setLink k x) := setLink_rest (.of_sameSegWork _ h)

theorem setBoth_rest {s : State} {k : StationId} {st : Station} {l : Link}
    (h : RestKept s.stations[k] s.links[k] st l) : KeepsRest s ((s.setStation k st).setLink k l) :=
  .of_station h rfl rfl rfl

/-- The turn is withdrawn, marked, read or left. -/
theorem setTurn_rest (s : State) {x : Option ReplayTurn}
    (h : ∀ t, x = some t → t.copy = none → t.marked = false → s.replay.turn = some t) :
    KeepsRest s (s.setTurn x) := by
  refine .of_kept (fun k => .refl ..) fun k _ hno t ht hk hc => ?_
  cases hm : t.marked with
  | true => rfl
  | false => exact hm.symm.trans (hno t (h t ht hc hm) hk hc)

theorem setTurn_none_rest (s : State) : KeepsRest s (s.setTurn none) :=
  setTurn_rest s fun _ h => nomatch h

/-- An operation on each station of a list. -/
theorem foldl_rest {f : State → StationId → State} (h : ∀ s k, KeepsRest s (f s k)) :
    ∀ (l : List StationId) (s : State), KeepsRest s (l.foldl f s)
  | [], s => .refl s
  | k :: l, s => (h s k).trans (foldl_rest h l (f s k))

/-! ### The shared operations -/

theorem mark_rest (s : State) (r : RecordId) : KeepsRest s (s.mark r) := .still rfl rfl rfl

theorem owe_rest (s : State) (r : RecordId) (b : Word) : KeepsRest s (s.owe r b) := .still rfl rfl rfl

theorem oweEvent_rest (s : State) (k : StationId) : KeepsRest s (s.oweEvent k) := .still rfl rfl rfl

theorem reach_rest (s : State) (n : Nat) : KeepsRest s (s.reach n) := .still rfl rfl rfl

theorem setGate_rest (s : State) (g : Gate) : KeepsRest s (s.setGate g) := .still rfl rfl rfl

theorem setBreak_rest (s : State) (k : StationId) (m : Monitor) : KeepsRest s (s.setBreak k m) :=
  .still rfl rfl rfl

theorem setPort_rest (s : State) (p : Port) : KeepsRest s (s.setPort p) := .still rfl rfl rfl

theorem setJob_rest (s : State) (j : Job) : KeepsRest s (s.setJob j) := .still rfl rfl rfl

theorem answer_rest (s : State) (a : ProcAnswer) : KeepsRest s (s.answer a) := .still rfl rfl rfl

theorem startWork_rest (s : State) (p : ProcTxn) (w : TransitWork) : KeepsRest s (s.startWork p w) :=
  .still rfl rfl rfl

theorem portAnswered_rest (s : State) : KeepsRest s s.portAnswered := .still rfl rfl rfl

theorem logError_rest (s : State) (e : ErrorKind) (o : Origin) (w : Bool) (a d : Word)
    (st : Option StationId) : KeepsRest s (s.logError e o w a d st) :=
  .still (by simp) (by simp) (by simp)

theorem refuse_rest (s : State) (e : ErrorKind) (p : ProcTxn) : KeepsRest s (s.refuse e p) :=
  .still (by simp) (by simp) (by simp)

theorem tellGate_rest (s : State) (k : StationId) : KeepsRest s (s.tellGate k) :=
  .still (by simp) (by simp) (by simp)

theorem completeJob_rest (s : State) (c : BitVec 4) (r : Result) : KeepsRest s (s.completeJob c r) :=
  .still rfl rfl rfl

theorem setCounters_rest (s : State) (k : StationId) (c : Counters) :
    KeepsRest s (s.setCounters k c) := setStation_same_rest s k ⟨rfl, rfl, rfl, rfl, rfl⟩

theorem completeStation_rest (s : State) (k : StationId) (c : BitVec 4) (r : Result) :
    KeepsRest s (s.completeStation k c r) :=
  ((setStation_same_rest s k (by exact ⟨rfl, rfl, rfl, rfl, rfl⟩)).trans (mark_rest ..)).trans (owe_rest ..)

theorem weighDrain_rest (s : State) (k : StationId) : KeepsRest s (s.weighDrain k) := by
  rw [weighDrain_eq]
  exact setLink_rest (.of_drained ..)

theorem enterDrive_rest {s : State} {k : StationId} (d : Drive) (h : Option Byte)
    (hst : s.stations[k].drive ≠ .stopped) (hd : d ≠ .stopped) : KeepsRest s (s.enterDrive k d h) := by
  rw [enterDrive_eq]
  exact .of_station (.of_entry _ _ h hst hd) rfl rfl rfl

theorem requestHeld_rest (s : State) (k : StationId) (r : HoldReason) :
    KeepsRest s (s.requestHeld k r) := by
  unfold State.requestHeld
  split
  · rename_i hd
    have h := enterDrive_rest (.held r) (some (BitVec.ofNat 8 (holdCode r))) (by rw [hd]; exact nofun) nofun
    simp only []
    split
    · exact h.trans (oweEvent_rest ..)
    · exact h
  all_goals exact .refl s

theorem requestFault_rest (s : State) (k : StationId) (c : FaultCode) :
    KeepsRest s (s.requestFault k c) := by
  unfold State.requestFault
  split
  · rename_i hd
    exact (enterDrive_rest (.fault c) _ (by rw [hd]; exact nofun) nofun).trans (oweEvent_rest ..)
  · rename_i hd
    exact (enterDrive_rest (.fault c) _ (by rw [hd]; exact nofun) nofun).trans (oweEvent_rest ..)
  all_goals exact .refl s

theorem overtake_rest (s : State) (k : StationId) : KeepsRest s (s.overtake k) := by
  unfold State.overtake
  split
  · rename_i t ht
    split
    · split
      · exact setTurn_rest s fun u hu _ hm => by
          obtain rfl := Option.some.inj hu
          cases hm
      · exact setTurn_none_rest s
    · exact .refl s
  · exact .refl s

/-- A station that is not OFF takes another feed that is not OFF. -/
theorem RestKept.of_feed {st : Station} (l : Link) (f : Feed) (hs : st.feed ≠ .off) (hf : f ≠ .off) :
    RestKept st l { st with feed := f } l :=
  ⟨fun hst => iff_of_false (fun hd => hs (hst.mp hd)) hf, id, fun _ e => absurd e hf,
    fun e => absurd e hf⟩

/-- A feed that is not OFF changes to another such, its turn is overtaken or not, and the gate is told. -/
theorem setFeed_rest {s : State} {k : StationId} (f : Feed) (hs : s.stations[k].feed ≠ .off)
    (hf : f ≠ .off) :
    KeepsRest s (((s.setStation k { s.stations[k] with feed := f }).tellGate k).oweEvent k)
    ∧ KeepsRest s
      ((((s.setStation k { s.stations[k] with feed := f }).overtake k).tellGate k).oweEvent k) := by
  have h : KeepsRest s (s.setStation k { s.stations[k] with feed := f }) :=
    setStation_rest (.of_feed _ f hs hf)
  exact ⟨(h.trans (tellGate_rest ..)).trans (oweEvent_rest ..),
    ((h.trans (overtake_rest ..)).trans (tellGate_rest ..)).trans (oweEvent_rest ..)⟩

theorem loseFeed_rest (s : State) (k : StationId) (r : LossReason) : KeepsRest s (s.loseFeed k r) := by
  unfold State.loseFeed
  split
  · rename_i h
    exact (setFeed_rest (.lost r) (by rw [h]; exact nofun) nofun).1
  · rename_i h
    exact (setFeed_rest (.lost r) (by rw [h]; exact nofun) nofun).2
  all_goals exact .refl s

theorem detachFeed_rest (s : State) (k : StationId) : KeepsRest s (s.detachFeed k) := by
  unfold State.detachFeed
  split
  · rename_i h
    exact (setFeed_rest .detached (by rw [h]; exact nofun) nofun).1
  · rename_i h
    exact (setFeed_rest .detached (by rw [h]; exact nofun) nofun).2
  all_goals exact .refl s

theorem joinLive_rest (s : State) (k : StationId) : KeepsRest s (s.joinLive k) := by
  unfold State.joinLive
  split
  · rename_i h
    exact (setStation_rest (.of_feed _ .live (by rw [h.1]; exact nofun) nofun)).trans (oweEvent_rest ..)
  · exact .refl s

theorem countClamp_rest (s : State) (k : StationId) (c : Record) : KeepsRest s (s.countClamp k c) := by
  unfold State.countClamp
  simp only []
  split
  · exact setCounters_rest ..
  · exact .refl s

theorem discardQueue_rest (s : State) (k : StationId) : KeepsRest s (s.discardQueue k) :=
  (setCounters_rest s k _).trans (setLink_same_rest _ k ⟨rfl, rfl, rfl, rfl, rfl, rfl⟩)

end Sys2Proof.Machine
end


section
/-! The commands of the inputs, the links and the control blocks keep the drives at rest. -/

namespace Sys2Proof.Machine

/-! ### Break and stop inputs -/

theorem breakEdge_rest (s : State) (k : StationId) : KeepsRest s (s.breakEdge k) :=
  ((((setCounters_rest ..).trans (mark_rest ..)).trans (oweEvent_rest ..)).trans
    (requestHeld_rest ..)).trans (weighDrain_rest ..)

theorem breakQualifies_rest (s : State) (k : StationId) : KeepsRest s (s.breakQualifies k) := by
  have h : KeepsRest s ((s.setBreak k s.breaks[k].qualify).mark (.station k)) := .still rfl rfl rfl
  unfold State.breakQualifies
  simp only []
  split
  · exact h.trans (breakEdge_rest ..)
  · exact h

theorem breakDue_rest (s : State) (k : StationId) : KeepsRest s (s.breakDue k) := by
  unfold State.breakDue
  split
  · split
    · exact breakQualifies_rest ..
    · exact .refl s
  · exact .refl s

theorem breakLineChange_rest (k : StationId) (level : Bool) (s : State) :
    KeepsRest s (breakLineChange k level s) :=
  ((breakDue_rest s k).trans (setBreak_rest ..)).trans (breakDue_rest ..)

theorem breakQualifiedChange_rest (k : StationId) (s : State) :
    KeepsRest s (breakQualifiedChange k s) := by
  unfold breakQualifiedChange
  split
  · exact (reach_rest ..).trans (breakQualifies_rest ..)
  · exact .refl s

theorem stopChanges_rest (s : State) : KeepsRest s s.stopChanges := by
  have hq : KeepsRest s s.stopQualifies := .still rfl rfl rfl
  unfold State.stopChanges
  split
  · exact hq
  · exact hq.trans (foldl_rest (fun t k => (requestHeld_rest t k _).trans (weighDrain_rest ..)) _ _)

theorem stopLineChange_rest (level : Bool) (s : State) : KeepsRest s (stopLineChange level s) := by
  have hdue : KeepsRest s s.stopDue := by
    unfold State.stopDue
    split
    · split
      · exact stopChanges_rest s
      · exact .refl s
    · exact .refl s
  exact hdue.trans (.still rfl rfl rfl)

theorem stopAssertion_rest (s : State) : KeepsRest s (stopAssertion s) := by
  unfold stopAssertion
  split
  · exact (reach_rest ..).trans (stopChanges_rest _)
  all_goals exact .refl s

theorem stopNegation_rest (s : State) : KeepsRest s (stopNegation s) := by
  unfold stopNegation
  split
  · exact (reach_rest ..).trans (stopChanges_rest _)
  all_goals exact .refl s

/-! ### The receiver -/

theorem characterComplete_rest (k : StationId) (c : SampledChar) (s : State) :
    KeepsRest s (characterComplete k c s) := by
  have hrx : ∀ f w, KeepsRest s (s.setLink k { s.links[k] with rx := f, waitMark := w }) := fun _ _ =>
    setLink_same_rest s k ⟨rfl, rfl, rfl, rfl, rfl, rfl⟩
  unfold characterComplete
  simp only []
  split
  · exact .refl s
  · split
    · exact hrx _ _
    · split
      · exact hrx _ _
      · exact (hrx _ _).trans (setCounters_rest ..)

theorem lineReturnedToMark_rest (k : StationId) (s : State) :
    KeepsRest s (lineReturnedToMark k s) := setLink_same_rest s k ⟨rfl, rfl, rfl, rfl, rfl, rfl⟩

theorem frameEnd_rest (k : StationId) (s : State) : KeepsRest s (frameEnd k s) := by
  have hend : ∀ n q, KeepsRest s ((s.reach n).setLink k { s.links[k] with rx := none, queue := q }) :=
    fun n _ => (reach_rest s n).trans (setLink_same_rest _ k (by exact ⟨rfl, rfl, rfl, rfl, rfl, rfl⟩))
  unfold frameEnd
  simp only []
  split
  · exact .refl s
  · split
    · split
      · exact hend _ _
      · exact (hend _ _).trans (setCounters_rest ..)
    · exact hend _ _
    · exact hend _ _

/-! ### Frames taken (R107) -/

/-- A frame taken is stale while the feed is OFF, and otherwise does what it does to a station that is not
OFF. -/
theorem takeFrame_rest (s : State) (k : StationId) {f : State → State}
    (hf : ∀ t : State, t.stations[k].feed ≠ .off → KeepsRest t (f t)) :
    KeepsRest s (s.takeFrame k f) := by
  have hpop : KeepsRest s (s.popFrame k) := setLink_same_rest s k ⟨rfl, rfl, rfl, rfl, rfl, rfl⟩
  unfold State.takeFrame
  split
  · exact hpop.trans (setCounters_rest ..)
  · rename_i hfeed
    exact hpop.trans (hf _ hfeed)

theorem segIs_outstanding {l : Link} {q : Seq} (h : segIs l q = true) : l.outstanding ≠ none := by
  intro hn
  unfold segIs at h
  rw [hn] at h
  cases h

theorem segWaiting_outstanding {l : Link} {q : Seq} (h : segWaiting l q = true) :
    l.outstanding ≠ none := by
  intro hn
  unfold segWaiting at h
  rw [hn] at h
  cases h

/-- An ACC comes for the outstanding SEG of a RUNNING drive (R117). -/
theorem accTaken_rest (k : StationId) (q : Seq) {s : State} (hf : s.stations[k].feed ≠ .off) :
    KeepsRest s (accTaken k q s) := by
  unfold accTaken
  split
  · rename_i h
    have hbusy := running_of_busy (st := s.stations[k]) (.inl (segIs_outstanding h))
    exact (setBoth_rest (by
      exact ⟨id, fun hr hd => absurd (hbusy hr) hd, fun _ e => absurd e hf, id⟩)).trans (weighDrain_rest ..)
  · exact setCounters_rest ..

/-- Outside RUNNING send stands at done, so a DONE carries it (R123). -/
theorem doneStation_rests {st : Station} {l : Link} (h : st.AtRest l) :
    (doneStation st).AtRest (doneLink st l) := by
  intro hd
  obtain ⟨hout, htimer, hretry, -, hsend⟩ := h hd
  have hcarry : seqBefore st.send (st.done + 1#16) = true := by
    rw [hsend]
    exact seqBefore_succ _
  unfold doneLink
  rw [if_pos hcarry]
  exact ⟨rfl, rfl, rfl, rfl, if_pos hcarry⟩

theorem doneTaken_rest (k : StationId) (q : Seq) {s : State} (hf : s.stations[k].feed ≠ .off) :
    KeepsRest s (doneTaken k q s) := by
  unfold doneTaken
  simp only []
  split
  · exact ((setBoth_rest (by exact ⟨id, doneStation_rests, fun _ e => absurd e hf, id⟩)).trans
      (setGate_rest ..)).trans (weighDrain_rest ..)
  · exact setCounters_rest ..

/-- A resend is decided, or the drive faulted, for a SEG or a timer of a RUNNING drive (R116, R118). -/
theorem retryDecision_rest {k : StationId} {s : State}
    (h : s.links[k].outstanding ≠ none ∨ s.links[k].ackTimer ≠ none) :
    KeepsRest s (retryDecision k s) := by
  have hlink : ∀ n o, KeepsRest s (s.setLink k { s.links[k] with
      ackTimer := none, retry := n, outstanding := o }) := fun _ _ =>
    setLink_rest (.of_running (running_of_busy h) ⟨rfl, rfl⟩)
  unfold retryDecision
  simp only []
  split
  · exact hlink _ _
  · exact ((hlink _ _).trans (requestFault_rest ..)).trans (weighDrain_rest ..)

theorem nakCheckTaken_rest (k : StationId) (q : Seq) (s : State) :
    KeepsRest s (nakCheckTaken k q s) := by
  unfold nakCheckTaken
  split
  · rename_i h
    exact retryDecision_rest (.inl (segWaiting_outstanding h))
  · exact setCounters_rest ..

theorem nakFullTaken_rest (k : StationId) (q : Seq) (s : State) : KeepsRest s (nakFullTaken k q s) := by
  unfold nakFullTaken
  split
  · rename_i h
    exact setLink_rest (.of_running (running_of_busy (.inl (segIs_outstanding h))) ⟨rfl, rfl⟩)
  · exact setCounters_rest ..

theorem nakTravelTaken_rest (k : StationId) (q : Seq) (s : State) :
    KeepsRest s (nakTravelTaken k q s) := by
  unfold nakTravelTaken
  split
  · exact (requestFault_rest ..).trans (weighDrain_rest ..)
  · exact setCounters_rest ..

theorem accFrame_rest (k : StationId) (s : State) : KeepsRest s (accFrame k s) := by
  unfold accFrame
  split
  · exact takeFrame_rest s k fun _ => accTaken_rest k _
  all_goals exact .refl s

theorem doneFrame_rest (k : StationId) (s : State) : KeepsRest s (doneFrame k s) := by
  unfold doneFrame
  split
  · exact takeFrame_rest s k fun _ => doneTaken_rest k _
  all_goals exact .refl s

theorem nakCheck_rest (k : StationId) (s : State) : KeepsRest s (nakCheck k s) := by
  unfold nakCheck
  split
  · split
    · exact takeFrame_rest s k fun t _ => nakCheckTaken_rest k _ t
    · exact .refl s
  all_goals exact .refl s

theorem nakFull_rest (k : StationId) (s : State) : KeepsRest s (nakFull k s) := by
  unfold nakFull
  split
  · split
    · exact takeFrame_rest s k fun t _ => nakFullTaken_rest k _ t
    · exact .refl s
  all_goals exact .refl s

theorem nakTravel_rest (k : StationId) (s : State) : KeepsRest s (nakTravel k s) := by
  unfold nakTravel
  split
  · split
    · exact .refl s
    · exact takeFrame_rest s k fun t _ => nakTravelTaken_rest k _ t
  all_goals exact .refl s

theorem fltFrame_rest (k : StationId) (s : State) : KeepsRest s (fltFrame k s) := by
  unfold fltFrame
  split
  · exact takeFrame_rest s k fun t _ => (requestFault_rest t k _).trans (weighDrain_rest ..)
  all_goals exact .refl s

/-! ### The transmitter -/

theorem ackTimerExpiry_rest (k : StationId) (s : State) : KeepsRest s (ackTimerExpiry k s) := by
  unfold ackTimerExpiry
  split
  · rename_i t ht
    exact (reach_rest ..).trans (retryDecision_rest (.inr (by
      show s.links[k].ackTimer ≠ none
      rw [ht]
      exact nofun)))
  · exact .refl s

theorem beginTx_rest (s : State) (k : StationId) (kind : TxKind) (bytes : List Byte) :
    KeepsRest s (s.beginTx k kind bytes) :=
  (reach_rest ..).trans (setLink_same_rest _ k (by exact ⟨rfl, rfl, rfl, rfl, rfl, rfl⟩))

theorem haltBegin_rest (k : StationId) (s : State) : KeepsRest s (haltBegin k s) := by
  unfold haltBegin
  split
  · exact beginTx_rest ..
  all_goals exact .refl s

theorem goBegin_rest (k : StationId) (s : State) : KeepsRest s (goBegin k s) := by
  unfold goBegin
  split
  · split
    · exact (beginTx_rest ..).trans (setLink_same_rest _ k (by exact ⟨rfl, rfl, rfl, rfl, rfl, rfl⟩))
    · exact .refl s
  all_goals exact .refl s

theorem segBegin_rest (k : StationId) (s : State) : KeepsRest s (segBegin k s) := by
  unfold segBegin
  split
  · split
    · exact beginTx_rest ..
    · exact .refl s
  all_goals exact .refl s

theorem resendBegin_rest (k : StationId) (s : State) : KeepsRest s (resendBegin k s) := by
  unfold resendBegin
  simp only []
  split
  · rename_i q _ r hout _
    split
    · refine ((beginTx_rest s k (.resend q false) (segFrame r)).trans (setLink_rest ?_)).trans
        (setCounters_rest ..)
      refine .of_running (running_of_busy (.inl ?_)) ⟨rfl, rfl⟩
      unfold State.beginTx
      simp only []
      rw [setLink_get]
      exact fun hn => nomatch hout.symm.trans hn
    · exact .refl s
  all_goals exact .refl s

/-- The end of a SEG's frame makes it outstanding while the drive is RUNNING (R115). -/
theorem frameEffect_rest (k : StationId) (kind : TxKind) (s : State) :
    KeepsRest s (frameEffect k kind s) := by
  unfold frameEffect
  simp only []
  split
  · exact setLink_same_rest s k ⟨rfl, rfl, rfl, rfl, rfl, rfl⟩
  · exact .refl s
  · split
    · rename_i h
      exact setLink_rest (.of_running (fun _ => h.2.1) ⟨rfl, rfl⟩)
    · exact .refl s
  · split
    · rename_i h
      refine setLink_rest (.of_running (running_of_busy (.inl ?_)) ⟨rfl, rfl⟩)
      rw [h.2]
      exact nofun
    · exact .refl s

theorem frameTransmitEnd_rest (k : StationId) (s : State) :
    KeepsRest s (frameTransmitEnd k s) := by
  have hwork : ∀ t, KeepsRest t (endResetWork k t) := fun t => by
    unfold endResetWork
    split
    · exact setLink_same_rest t k ⟨rfl, rfl, rfl, rfl, rfl, rfl⟩
    · exact .refl t
  unfold frameTransmitEnd
  split
  · exact (((reach_rest ..).trans
      (setLink_same_rest _ k (by exact ⟨rfl, rfl, rfl, rfl, rfl, rfl⟩))).trans
      (frameEffect_rest ..)).trans (hwork _)
  · exact .refl s

theorem readyChange_rest (k : StationId) (a : Bool) (s : State) : KeepsRest s (readyChange k a s) :=
  setLink_same_rest s k ⟨rfl, rfl, rfl, rfl, rfl, rfl⟩

/-! ### Station commands -/

theorem startDetach_rest (k : StationId) (s : State) : KeepsRest s (startDetach k s) := by
  unfold startDetach
  split
  · exact (detachFeed_rest ..).trans (completeStation_rest ..)
  · exact (detachFeed_rest ..).trans (completeStation_rest ..)
  all_goals exact completeStation_rest ..

theorem startReattach_rest (k : StationId) (s : State) : KeepsRest s (startReattach k s) := by
  unfold startReattach
  split
  · rename_i h
    refine ((setStation_rest (.of_feed _ _ (by rw [h]; exact nofun) ?_)).trans (tellGate_rest ..)).trans
      (completeStation_rest ..)
    split <;> exact nofun
  · exact completeStation_rest ..

theorem startHold_rest (k : StationId) (s : State) : KeepsRest s (startHold k s) := by
  unfold startHold
  split
  · exact ((requestHeld_rest ..).trans (weighDrain_rest ..)).trans (completeStation_rest ..)
  all_goals exact completeStation_rest ..

theorem resumeResult_ok {k : StationId} {s : State} (h : resumeResult k s = .ok) :
    ∃ r, s.stations[k].drive = .held r := by
  unfold resumeResult at h
  split at h
  · rename_i r hd
    exact ⟨r, hd⟩
  all_goals cases h

theorem startResume_rest (k : StationId) (s : State) : KeepsRest s (startResume k s) := by
  unfold startResume
  split
  · rename_i h
    obtain ⟨r, hd⟩ := resumeResult_ok h
    have hrun : KeepsRest s (s.setStation k { s.stations[k] with drive := .running }) := by
      refine setStation_rest ⟨fun hs => ?_, fun _ hn => absurd rfl hn, id, id⟩
      refine iff_of_false nofun fun hf => ?_
      have hstop := hs.mpr hf
      rw [hd] at hstop
      cases hstop
    exact (hrun.trans (setLink_same_rest _ k (by exact ⟨rfl, rfl, rfl, rfl, rfl, rfl⟩))).trans
      (completeStation_rest ..)
  · exact completeStation_rest ..

theorem startClear_rest (k : StationId) (s : State) : KeepsRest s (startClear k s) := by
  unfold startClear
  split
  · rename_i c hd
    exact (((enterDrive_rest (.held .cleared) none (by rw [hd]; exact nofun) nofun).trans
      (oweEvent_rest ..)).trans (weighDrain_rest ..)).trans (completeStation_rest ..)
  all_goals exact completeStation_rest ..

/-- An OFF station has no turn that can still post to it, since RELEASE overtakes it (R79). -/
theorem overtakenTurn_noOpenTurn (s : State) (k : StationId) : NoOpenTurn (s.overtakenTurn k) k := by
  intro t ht hk hc
  obtain ⟨u, -, hu⟩ := Option.bind_eq_some_iff.mp ht
  split at hu
  · split at hu
    · obtain rfl := Option.some.inj hu
      rfl
    · cases hu
  · rename_i hn
    obtain rfl := Option.some.inj hu
    exact absurd ⟨hk, hc⟩ hn

/-- Any other station's turn is left by it. -/
theorem overtakenTurn_keeps {s : State} {k j : StationId} (h : NoOpenTurn s.replay.turn j) :
    NoOpenTurn (s.overtakenTurn k) j := by
  intro t ht hj hc
  obtain ⟨u, hu, ht⟩ := Option.bind_eq_some_iff.mp ht
  split at ht
  · split at ht
    · obtain rfl := Option.some.inj ht
      rfl
    · cases ht
  · obtain rfl := Option.some.inj ht
    exact h u hu hj hc

/-- A released station is OFF and STOPPED with nothing under way (R70). -/
theorem finishRelease_rest (k : StationId) (s : State) : KeepsRest s (finishRelease k s) := by
  rw [released_eq]
  refine .trans (t := s.released k) ?_ (.still rfl rfl rfl)
  have hother : ∀ j : StationId, j ≠ k → (s.released k).stations[j] = s.stations[j]
      ∧ (s.released k).links[j] = s.links[j] := fun j hj =>
    ⟨get_set_ne _ _ _ _ hj, get_set_ne _ _ _ _ hj⟩
  refine ⟨fun hs j => ?_, fun hs j => ?_, fun hs => ?_⟩
  · by_cases hj : j = k
    · subst hj
      rw [State.released, get_set_self]
      exact iff_of_true rfl rfl
    · rw [(hother j hj).1]
      exact hs j
  · by_cases hj : j = k
    · subst hj
      rw [State.released, get_set_self, get_set_self]
      exact fun _ => ⟨rfl, rfl, rfl, rfl, rfl⟩
    · rw [(hother j hj).1, (hother j hj).2]
      exact hs j
  · rw [offHoldsNothing_iff] at hs ⊢
    intro j
    by_cases hj : j = k
    · subst hj
      refine ⟨?_, fun _ => overtakenTurn_noOpenTurn s j⟩
      rw [State.released, get_set_self, get_set_self]
      refine fun _ => ⟨rfl, rfl, rfl, fun d hd => ?_⟩
      obtain ⟨a, -, rfl⟩ := Option.map_eq_some_iff.mp hd
      rfl
    · rw [(hother j hj).1, (hother j hj).2]
      exact ⟨(hs j).1, fun hf => overtakenTurn_keeps ((hs j).2 hf)⟩

theorem startRelease_rest (k : StationId) (s : State) : KeepsRest s (startRelease k s) := by
  have hheld : KeepsRest s ((s.requestHeld k .operator).weighDrain k) :=
    (requestHeld_rest ..).trans (weighDrain_rest ..)
  unfold startRelease
  simp only []
  split
  · exact completeStation_rest ..
  · split
    · exact hheld.trans (finishRelease_rest ..)
    · exact hheld.trans (setStation_same_rest _ k (by exact ⟨rfl, rfl, rfl, rfl, rfl⟩))

theorem startAttach_rest (k : StationId) (w : Word) (s : State) :
    KeepsRest s (startAttach k w s) := by
  unfold startAttach
  split
  · exact completeStation_rest ..
  · split
    · exact completeStation_rest ..
    · exact setStation_same_rest s k ⟨rfl, rfl, rfl, rfl, rfl⟩

theorem startStationCommand_rest (k : StationId) (w : Word) (s : State) :
    KeepsRest s (startStationCommand k w s) := by
  unfold startStationCommand
  split
  · exact .refl s
  · exact startAttach_rest ..
  · exact startDetach_rest ..
  · exact startReattach_rest ..
  · exact startHold_rest ..
  · exact startResume_rest ..
  · exact startClear_rest ..
  · exact startRelease_rest ..
  · exact completeStation_rest ..

/-- A station being attached is HELD with its pointers level and the link rewound (R56, R63). -/
theorem attachStation_rest (k : StationId) (index : BitVec 5) (q : Seq) (d : Descriptor) (s : State) :
    KeepsRest s (attachStation k index q d s) := by
  unfold attachStation
  rw [enterDrive_eq, setStation_get, show (s.setStation k _).links[k] = s.links[k] from rfl]
  refine .of_station (k := k) ?_ (vector_set_set ..) rfl rfl
  obtain ⟨-, -, h3, h4, h5, h6⟩ := placeHalt_segWork s.links[k].rewind none
  have hfeed : (attachedStation s.stations[k] s.job index q d).feed ≠ .off := by
    unfold attachedStation
    simp only []
    split <;> exact nofun
  exact ⟨fun _ => iff_of_false nofun hfeed, fun _ _ => ⟨h3, h4, h5, h6, rfl⟩,
    fun _ e => absurd e hfeed, fun e => absurd e hfeed⟩

theorem completeAttach_rest (k : StationId) (index : BitVec 5) (q : Seq) (ans : ReadAnswer 4)
    (s : State) : KeepsRest s (completeAttach k index q ans s) := by
  have hq : KeepsRest s (s.discardQueue k) := discardQueue_rest ..
  unfold completeAttach
  split
  · exact (hq.trans (logError_rest ..)).trans (completeStation_rest ..)
  · split
    · exact (hq.trans (attachStation_rest ..)).trans (completeStation_rest ..)
    · exact hq.trans (completeStation_rest ..)

theorem attachComplete_rest (ans : ReadAnswer 4) (s : State) :
    KeepsRest s (attachComplete ans s) := by
  unfold attachComplete
  split
  · split
    · exact (portAnswered_rest s).trans (completeAttach_rest ..)
    · exact portAnswered_rest s
    · exact portAnswered_rest s
  all_goals exact .refl s

theorem releaseComplete_rest (k : StationId) (s : State) : KeepsRest s (releaseComplete k s) := by
  unfold releaseComplete
  split
  · exact finishRelease_rest ..
  · exact .refl s

end Sys2Proof.Machine
end


section
/-! The journal, the replay engine, the memory port, start-up and the processor port keep the drives at
rest, and so does every step. -/

namespace Sys2Proof.Machine

/-! ### The commit (R34 to R42) -/

theorem startApply_rest (p : ProcTxn) (s : State) : KeepsRest s (startApply p s) := by
  have hover : ∀ t k, KeepsRest t (t.moveOverwritten k) := fun t k => by
    unfold State.moveOverwritten
    split
    · exact loseFeed_rest ..
    · exact .refl t
  have hlag : ∀ t k, KeepsRest t (t.moveLagging k) := fun t k => by
    unfold State.moveLagging
    split
    · exact detachFeed_rest ..
    · exact .refl t
  exact (((setJob_rest ..).trans (foldl_rest hover _ _)).trans (foldl_rest hlag _ _)).trans
    (startWork_rest ..)

theorem attemptCommit_rest (p : ProcTxn) (s : State) : KeepsRest s (attemptCommit p s) := by
  unfold attemptCommit
  split
  · exact ((setJob_rest ..).trans (mark_rest ..)).trans (refuse_rest ..)
  · split
    · exact answer_rest ..
    · exact startApply_rest ..

theorem journalWrite_rest (t : WriteTxn) (s : State) : KeepsRest s (journalWrite t s) := by
  unfold journalWrite
  simp only []
  split
  · exact refuse_rest ..
  · split
    · exact refuse_rest ..
    · split
      · split
        · exact (setJob_rest ..).trans (attemptCommit_rest ..)
        · exact (setJob_rest ..).trans (answer_rest ..)
      · split
        · exact refuse_rest ..
        · exact refuse_rest ..

theorem joinAll_rest (s : State) : KeepsRest s (joinAll s) := foldl_rest joinLive_rest _ s

theorem commitEnd_rest (s : State) : KeepsRest s (commitEnd s) := by
  have hsync : KeepsRest s (insertSync s) := by
    unfold insertSync
    split
    · exact setGate_rest ..
    · exact .refl s
  have hend : ∀ t, KeepsRest t (oweEnd t) := fun t => by
    unfold oweEnd
    split
    · exact owe_rest ..
    · exact .refl t
  exact (((hsync.trans (hend _)).trans (setJob_rest ..)).trans (joinAll_rest _)).trans (answer_rest ..)

theorem commitFail_rest (addr : Word) (s : State) : KeepsRest s (commitFail addr s) :=
  (((logError_rest ..).trans (setJob_rest ..)).trans (joinAll_rest _)).trans (answer_rest ..)

theorem travelFault_rest (s : State) (k : StationId) : KeepsRest s (s.travelFault k) :=
  ((requestFault_rest ..).trans (detachFeed_rest ..)).trans (weighDrain_rest ..)

theorem commitNext_rest (p : ProcTxn) : ∀ (l : List StationId) (s : State),
    KeepsRest s (commitNext p l s)
  | [], s => commitEnd_rest s
  | k :: l, s => by
    unfold commitNext
    split
    · split
      · exact (travelFault_rest s k).trans (commitNext_rest p l _)
      · exact startWork_rest ..
    · exact commitNext_rest p l s

/-- A station that is not OFF takes another post. -/
theorem setPost_rest {s : State} {k : StationId} (q : Seq) (h : s.stations[k].feed ≠ .off) :
    KeepsRest s (s.setStation k { s.stations[k] with post := q }) :=
  setStation_rest ⟨id, id, fun _ e => absurd e h, id⟩

theorem postOk_rest (k : StationId) (copy : Record) (s : State) : KeepsRest s (postOk k copy s) := by
  unfold postOk
  split
  · rename_i h
    exact ((setPost_rest _ (by rw [h]; exact nofun)).trans (countClamp_rest ..)).trans
      (weighDrain_rest ..)
  · exact .refl s

theorem postFault_rest (k : StationId) (addr : Word) (copy : Record) (s : State) :
    KeepsRest s (postFault k addr copy s) :=
  (((logError_rest ..).trans (requestFault_rest ..)).trans (detachFeed_rest ..)).trans
    (weighDrain_rest ..)

theorem journalWriteAnswer_rest (ans : WriteAnswer) (s : State) :
    KeepsRest s (journalWriteAnswer ans s) := by
  unfold journalWriteAnswer
  split
  · cases ans with
    | ok => exact (portAnswered_rest s).trans (commitNext_rest ..)
    | fault => exact (portAnswered_rest s).trans (commitFail_rest ..)
  all_goals exact .refl s

theorem postWriteAnswer_rest (ans : WriteAnswer) (s : State) :
    KeepsRest s (postWriteAnswer ans s) := by
  unfold postWriteAnswer
  split
  · cases ans with
    | ok => exact ((portAnswered_rest s).trans (postOk_rest ..)).trans (commitNext_rest ..)
    | fault => exact ((portAnswered_rest s).trans (postFault_rest ..)).trans (commitNext_rest ..)
  all_goals exact .refl s

/-! ### The replay engine (R75 to R85) -/

theorem eligible_feed {s : State} {k : StationId} (h : eligible s k = true) :
    s.stations[k].feed = .catchup := by
  unfold eligible at h
  rw [Bool.and_eq_true, Bool.and_eq_true] at h
  exact beq_iff_eq.mp h.1.1

/-- A turn is begun for a CATCHUP station (R76). -/
theorem replayTurnGrant_rest (s : State) : KeepsRest s (replayTurnGrant s) := by
  unfold replayTurnGrant
  split
  · rename_i k _ hk
    refine .of_kept (fun j => .refl ..) fun j hj _ t ht htk => ?_
    obtain rfl := Option.some.inj ht
    obtain rfl : k = j := htk
    cases hj.symm.trans (eligible_feed (List.find?_some hk))
  all_goals exact .refl s

theorem turnEnded_rest (s : State) : KeepsRest s (s.portAnswered.setTurn none) :=
  (portAnswered_rest s).trans (setTurn_none_rest _)

/-- A turn that is neither marked nor read is for a station that is not OFF, so its post may advance
(R79, R83). -/
theorem turnCopy_rest {t : ReplayTurn} (copy : Record) {s : State} (ht : s.replay.turn = some t)
    (hc : t.copy = none) (hm : t.marked = false) : KeepsRest s (turnCopy t copy s) := by
  have hread : KeepsRest s (s.setTurn (some { t with copy := some copy })) :=
    setTurn_rest s fun u hu hn _ => by
      obtain rfl := Option.some.inj hu
      cases hn
  have hon : OffHoldsNothing s → s.stations[t.station].feed ≠ .off := fun h hf => by
    obtain ⟨-, hturn⟩ := (offHoldsNothing_iff s).mp h t.station
    exact Bool.false_ne_true (hm.symm.trans (hturn hf t ht rfl hc))
  have hposted : KeepsRest s ((s.setStation t.station
      { s.stations[t.station] with post := t.seq + 1#16 }).setTurn (some { t with copy := some copy })) :=
    hread.changed hon rfl (vector_set_get ..).symm rfl rfl id id
  exact (hposted.trans (setPort_rest ..)).trans (weighDrain_rest ..)

theorem turnOutcome_rest {t : ReplayTurn} (ans : ReadAnswer 8) {s : State} (ht : s.replay.turn = some t)
    (hc : t.copy = none) (hm : t.marked = false) : KeepsRest s (turnOutcome t ans s) := by
  have hend := turnEnded_rest s
  unfold turnOutcome
  simp only []
  split
  · exact (hend.trans (logError_rest ..)).trans (loseFeed_rest ..)
  · split
    · split
      · exact hend.trans (travelFault_rest ..)
      · exact turnCopy_rest _ ht hc hm
    · exact hend.trans (loseFeed_rest ..)

theorem replayReadAnswer_rest (ans : ReadAnswer 8) (s : State) :
    KeepsRest s (replayReadAnswer ans s) := by
  unfold replayReadAnswer
  split
  · rename_i t _ ht
    split
    · exact .refl s
    · rename_i hc
      split
      · exact turnEnded_rest s
      · rename_i hm
        exact turnOutcome_rest ans ht hc (Bool.eq_false_iff.mpr hm)
  all_goals exact .refl s

theorem turnWritten_rest (t : ReplayTurn) (copy : Record) (s : State) :
    KeepsRest s (turnWritten t copy s) := by
  unfold turnWritten
  split
  · exact .refl s
  · exact (countClamp_rest ..).trans (joinLive_rest ..)

theorem replayWriteAnswer_rest (ans : WriteAnswer) (s : State) :
    KeepsRest s (replayWriteAnswer ans s) := by
  have hend := turnEnded_rest s
  unfold replayWriteAnswer
  split
  · split
    · exact .refl s
    · cases ans with
      | ok => exact hend.trans (turnWritten_rest ..)
      | fault => exact (hend.trans (logError_rest ..)).trans (loseFeed_rest ..)
  all_goals exact .refl s

/-! ### Drain reads (R112, R113) -/

/-- A copy, or a spoiled mark, is staged on a station that is not OFF. -/
theorem KeepsRest.staged {s₀ s : State} {k : StationId} (h₀ : KeepsRest s₀ s)
    (hon : OffHoldsNothing s₀ → s.stations[k].feed ≠ .off) (g : Staging) :
    KeepsRest s₀ (s.setLink k { s.links[k] with staging := g }) :=
  h₀.changed hon (vector_set_get ..).symm rfl rfl rfl id id

theorem requestFault_feed (s : State) (k : StationId) (c : FaultCode) :
    (s.requestFault k c).stations[k].feed = s.stations[k].feed := by
  have henter : ∀ d h, (s.enterDrive k d h).stations[k].feed = s.stations[k].feed := fun d h => by
    rw [enterDrive_eq, get_set_self]
  unfold State.requestFault
  split
  · exact henter _ _
  · exact henter _ _
  all_goals rfl

/-- Outside OFF a drain read's outcome stages what it has read (R112). -/
theorem drainOutcome_rest {s₀ s : State} {k : StationId} (d : DrainRead) (ans : ReadAnswer 8)
    (h₀ : KeepsRest s₀ s) (hon : OffHoldsNothing s₀ → s.stations[k].feed ≠ .off) :
    KeepsRest s₀ (drainOutcome k d ans s) := by
  have hspoil : ∀ (t : State) c, KeepsRest s₀ t → t.stations = s.stations →
      KeepsRest s₀ (spoil k d.seq (t.requestFault k c)) := fun t c ht hst => by
    have hfault := ht.trans (requestFault_rest t k c)
    unfold spoil
    split
    · refine hfault.staged (fun h => ?_) _
      rw [requestFault_feed, hst]
      exact hon h
    · exact hfault
  unfold drainOutcome
  split
  · split
    · exact h₀.staged hon _
    · exact hspoil s _ h₀ rfl
  · exact hspoil _ _ (h₀.trans (logError_rest ..)) (by simp)

/-- The drain read of an OFF station is marked, and stages nothing (R70, R113). -/
theorem drainReadAnswer_rest (ans : ReadAnswer 8) (s : State) :
    KeepsRest s (drainReadAnswer ans s) := by
  have hend : ∀ k, KeepsRest s (endDrain k s) := fun k => by
    refine .of_station (k := k) (l := { s.links[k] with drain := none }) ⟨id, id, fun he hf => ?_, id⟩
      (vector_set_get ..).symm rfl rfl
    obtain ⟨hpost, hsend, hstage, -⟩ := he hf
    exact ⟨hpost, hsend, hstage, fun _ hd => nomatch hd⟩
  unfold drainReadAnswer
  split
  · rename_i k _ _
    split
    · rename_i d hd
      split
      · exact (hend k).trans (weighDrain_rest ..)
      · rename_i hm
        refine (drainOutcome_rest d ans (hend k) fun h hf => hm ?_).trans (weighDrain_rest ..)
        obtain ⟨-, -, -, hmarked, -⟩ := h k hf
        exact hmarked d hd
    · exact .refl s
  all_goals exact .refl s

/-! ### Start-up and the resets -/

/-- Stations in their reset state, with links on which nothing is under way and no turn. -/
theorem KeepsRest.of_reset (s : State) {t : State} (hs : ∀ k : StationId, t.stations[k] = Station.reset)
    (hl : ∀ k : StationId, Link.reset.SameSegWork t.links[k]) (ht : t.replay.turn = none) :
    KeepsRest s t := by
  refine ⟨fun _ k => ?_, fun _ k _ => ?_, fun _ => (offHoldsNothing_iff t).mpr fun k => ⟨?_, fun _ => ?_⟩⟩
  · rw [hs k]
    exact iff_of_true rfl rfl
  · obtain ⟨-, -, h3, h4, h5, h6⟩ := hl k
    rw [hs k]
    exact ⟨h3, h4, h5, h6, rfl⟩
  · obtain ⟨h1, h2, -⟩ := hl k
    rw [hs k]
    exact fun _ => ⟨rfl, rfl, h1, fun d hd => nomatch h2.symm.trans hd⟩
  · exact fun u hu => nomatch ht.symm.trans hu

theorem powerOnReset_rest (s : State) : KeepsRest s (powerOnReset s) := by
  refine .of_reset s reset_station (fun k => ?_) rfl
  show Link.reset.SameSegWork (mapLinks s.links _)[k]
  rw [mapLinks_get]
  exact ⟨rfl, rfl, rfl, rfl, rfl, rfl⟩

theorem busReset_rest (s : State) : KeepsRest s (busReset s) := by
  unfold busReset
  split
  · exact .refl s
  · split
    · exact .still rfl rfl rfl
    · refine .of_reset s reset_station (fun k => ?_) rfl
      show Link.reset.SameSegWork (mapLinks s.links _)[k]
      rw [mapLinks_get]
      exact ⟨rfl, rfl, rfl, rfl, rfl, rfl⟩

theorem porstNegation_rest (v : InputLevels) (s : State) : KeepsRest s (porstNegation v s) := by
  unfold porstNegation
  split
  · refine .of_kept (fun k => ?_) fun _ _ h => h
    show RestKept _ _ _ (mapLinks s.links _)[k]
    rw [mapLinks_get]
    exact .of_sameSegWork _ ⟨rfl, rfl, rfl, rfl, rfl, rfl⟩
  · exact .refl s

end Sys2Proof.Machine
end


section
/-! The rows that leave the stations alone, the processor's writes, and every step: the drives stay at
rest. -/

namespace Sys2Proof.Machine

/-! ### Start-up -/

theorem startPass_rest (s : State) : KeepsRest s (startPass s) := by
  rw [startPass_eq]
  exact .still rfl rfl rfl

theorem busrstNegation_rest (s : State) : KeepsRest s (busrstNegation s) := by
  unfold busrstNegation
  split
  · split
    · exact .still rfl rfl rfl
    · exact .trans (t := { s with busrst := false }) (.still rfl rfl rfl) (startPass_rest _)
  · exact .refl s

theorem bootAttempt_rest (s : State) : KeepsRest s (bootAttempt s) := by
  unfold bootAttempt
  split
  · exact .still rfl rfl rfl
  all_goals exact .refl s

theorem bootDone_rest (r : Regions) (s : State) : KeepsRest s (bootDone r s) := by
  rw [bootDone_eq]
  exact .still rfl rfl rfl

theorem driving_rest (acts : List BusAct) (s : State) : KeepsRest s (driving acts s) :=
  .still rfl rfl rfl

/-- The attempt ends: what the loader drives and has read, the error logged, the straps taken (R184). -/
theorem strapsAfterError_rest (c : BootCause) (s : State) : KeepsRest s (takeStraps (logBootBad c s)) :=
  (logError_rest ..).trans (bootDone_rest ..)

theorem readEnded_rest (acts : List BusAct) (got : List Byte) (s : State) :
    KeepsRest s (driving acts (withBytes got s)) := .still rfl rfl rfl

theorem bootBusBusyTimeout_rest (s : State) : KeepsRest s (bootBusBusyTimeout s) := by
  unfold bootBusBusyTimeout
  split
  · exact (reach_rest ..).trans (strapsAfterError_rest ..)
  all_goals exact .refl s

theorem bootDeviceNack_rest (s : State) : KeepsRest s (bootDeviceNack s) := by
  unfold bootDeviceNack
  split
  · exact (driving_rest ..).trans (bootDone_rest ..)
  · exact .refl s

theorem bootAddressNack_rest (s : State) : KeepsRest s (bootAddressNack s) := by
  unfold bootAddressNack
  split
  · exact (driving_rest ..).trans (strapsAfterError_rest ..)
  · exact .refl s

theorem bootStretchTimeout_rest (got : List Byte) (s : State) :
    KeepsRest s (bootStretchTimeout got s) := by
  unfold bootStretchTimeout
  split
  · exact (readEnded_rest ..).trans (strapsAfterError_rest ..)
  · exact .refl s

theorem bootArbitrationLost_rest (lost : LostAttempt) (s : State) :
    KeepsRest s (bootArbitrationLost lost s) := by
  unfold bootArbitrationLost
  split
  · split
    · exact .still rfl rfl rfl
    · exact (readEnded_rest ..).trans (strapsAfterError_rest ..)
  · exact .refl s

theorem bootReadEnd_rest (b : Vector Byte 16) (s : State) : KeepsRest s (bootReadEnd b s) := by
  unfold bootReadEnd
  simp only []
  split
  · split
    · exact (readEnded_rest ..).trans (bootDone_rest ..)
    · exact (readEnded_rest ..).trans (strapsAfterError_rest ..)
  · exact .refl s

/-! ### Job commands -/

theorem startOpen_rest (w : Word) (s : State) : KeepsRest s (startOpen w s) := by
  unfold startOpen
  split
  · exact completeJob_rest ..
  · exact setJob_rest ..

theorem startClose_rest (s : State) : KeepsRest s (startClose s) := by
  unfold startClose
  split
  · exact (setJob_rest ..).trans (completeJob_rest ..)
  all_goals exact completeJob_rest ..

theorem startJobCommand_rest (w : Word) (s : State) : KeepsRest s (startJobCommand w s) := by
  unfold startJobCommand
  split
  · exact .refl s
  · exact startOpen_rest ..
  · exact startClose_rest ..
  · exact completeJob_rest ..

theorem completeOpen_rest (index : BitVec 5) (start : Seq) (ans : ReadAnswer 4) (s : State) :
    KeepsRest s (completeOpen index start ans s) := by
  unfold completeOpen
  split
  · exact (logError_rest ..).trans (completeJob_rest ..)
  · split
    · exact completeJob_rest ..
    · split
      · exact (setJob_rest ..).trans (completeJob_rest ..)
      · exact completeJob_rest ..

theorem openComplete_rest (ans : ReadAnswer 4) (s : State) : KeepsRest s (openComplete ans s) := by
  unfold openComplete
  split
  · exact (portAnswered_rest s).trans (completeOpen_rest ..)
  · exact portAnswered_rest s
  · exact .refl s

/-! ### The memory port and the status writer -/

theorem carry_rest (s : State) (r : Requester) (t : MemTxn) : KeepsRest s (s.carry r t) :=
  .still rfl rfl rfl

theorem beginRecord_rest (r : RecordId) (s : State) : KeepsRest s (beginRecord r s) :=
  .still rfl rfl rfl

theorem grantStatus_rest (s : State) : KeepsRest s (grantStatus s) := by
  unfold grantStatus
  split
  · exact .still rfl rfl rfl
  · exact .refl s

theorem grantPass_rest (i : Nat) (s : State) : KeepsRest s (grantPass i s) := by
  unfold grantPass
  split <;> exact .still rfl rfl rfl

theorem grantTo_rest (r : Requester) (s : State) : KeepsRest s (grantTo r s) := by
  unfold grantTo
  split
  · split
    · exact carry_rest ..
    · exact .refl s
  · split
    · exact carry_rest ..
    · exact .refl s
  · split
    · exact carry_rest ..
    all_goals exact .refl s
  · split
    · exact grantPass_rest ..
    · exact grantStatus_rest s
  · split
    · exact (setPort_rest ..).trans (carry_rest ..)
    · exact .refl s
  · split
    · exact (setPort_rest ..).trans (carry_rest ..)
    · exact .refl s

theorem arbiterGrant_rest (s : State) : KeepsRest s (arbiterGrant s) := by
  unfold arbiterGrant
  split
  · split
    · exact (setPort_rest ..).trans (grantTo_rest ..)
    · exact .refl s
  · exact .refl s

theorem statusFault_rest (w : StatusWrite) (t : MemTxn) (s : State) :
    KeepsRest s (statusFault w t s) := by
  have howed : KeepsRest s (returnOwed w (endStatusWrite s)) := by
    rw [returnOwed_frame]
    exact .still rfl rfl rfl
  exact howed.trans (logError_rest ..)

theorem secondHalf_rest (w : StatusWrite) (addr : Word) (r : Record) (s : State) :
    KeepsRest s (secondHalf w addr r s) := .still rfl rfl rfl

theorem statusDone_rest (b : Word) (s : State) : KeepsRest s (setPendingBits b (endStatusWrite s)) :=
  .still rfl rfl rfl

theorem statusWriteAnswer_rest (ans : WriteAnswer) (s : State) :
    KeepsRest s (statusWriteAnswer ans s) := by
  unfold statusWriteAnswer
  split
  · split
    · exact secondHalf_rest ..
    · exact statusDone_rest ..
    · exact statusFault_rest ..
  all_goals exact .refl s

theorem passGoesOn_rest (i : Nat) (s : State) : KeepsRest s (passGoesOn i s) := by
  rw [passGoesOn_frame]
  exact .still rfl rfl rfl

theorem initWriteAnswer_rest (ans : WriteAnswer) (s : State) : KeepsRest s (initWriteAnswer ans s) := by
  unfold initWriteAnswer
  split
  · split
    · exact (secondHalf_rest ..).trans (passGoesOn_rest ..)
    · exact (statusDone_rest ..).trans (passGoesOn_rest ..)
    · exact (statusFault_rest ..).trans (passGoesOn_rest ..)
    · exact (statusFault_rest ..).trans (passGoesOn_rest ..)
  all_goals exact .refl s

/-! ### Writes into the control page -/

theorem copyLine_rest (k : StationId) (s : State) : KeepsRest s (copyLine k s) := by
  unfold copyLine
  split
  · exact .refl s
  · exact setLink_same_rest s k ⟨rfl, rfl, rfl, rfl, rfl, rfl⟩

/-- A timer that runs is that of a RUNNING drive, and is restarted (R116). -/
theorem restartAckTimer_rest (k : StationId) (s : State) : KeepsRest s (restartAckTimer k s) := by
  unfold restartAckTimer
  split
  · rename_i t ht
    refine setLink_rest (.of_running (running_of_busy (.inr ?_)) ⟨rfl, rfl⟩)
    exact fun hn => nomatch ht.symm.trans hn
  · exact .refl s

theorem setStationShadow_rest (s : State) (k : StationId) (n : Fin 16) (v : Word) :
    KeepsRest s (setStationShadow s k n v) := .still rfl rfl rfl

theorem applyStationWord_rest (k : StationId) (n : Fin 16) (v : Word) (s : State) :
    KeepsRest s (applyStationWord k n v s) := by
  have hdue : KeepsRest s (if n = 14 then s.breakDue k else s) := by
    split
    · exact breakDue_rest ..
    · exact .refl s
  unfold applyStationWord
  simp only []
  generalize (if n = 14 then s.breakDue k else s) = d at hdue
  have hset := hdue.trans (setStationShadow_rest d k n v)
  split
  · exact hset.trans (copyLine_rest ..)
  · split
    · exact hset.trans ((restartAckTimer_rest ..).trans (breakDue_rest ..))
    · split
      · exact hset.trans (startStationCommand_rest ..)
      · exact hset

theorem acknowledge_rest (v : Word) (s : State) : KeepsRest s (acknowledge v s) := by
  unfold acknowledge
  simp only []
  split <;> exact .still rfl rfl rfl

theorem applyJobWord_rest (n : Fin 16) (v : Word) (s : State) : KeepsRest s (applyJobWord n v s) := by
  have hset : KeepsRest s (setJobShadow s n v) := .still rfl rfl rfl
  unfold applyJobWord
  simp only []
  split
  · exact hset.trans (acknowledge_rest ..)
  · split
    · exact hset.trans (startJobCommand_rest ..)
    · exact hset

theorem applyWord_rest (v : Word) (s : State) (a : PageWord) : KeepsRest s (applyWord v s a) := by
  cases a with
  | table i => exact .still rfl rfl rfl
  | station k n => exact applyStationWord_rest ..
  | job n => exact applyJobWord_rest ..
  | unused => exact .refl s
  | status => exact .refl s

theorem applyWords_rest : ∀ (ws : List WriteWord) (n : Nat) (s : State),
    KeepsRest s (applyWords n ws s)
  | [], _, s => .refl s
  | w :: ws, n, s => (applyWord_rest w.data s (pageWord n)).trans (applyWords_rest ws (n + 4) _)

theorem pageWrite_rest (t : WriteTxn) (s : State) : KeepsRest s (pageWrite t s) := by
  unfold pageWrite
  simp only []
  split
  · exact refuse_rest ..
  · exact answer_rest ..
  · exact (applyWords_rest ..).trans (startWork_rest ..)

/-! ### The processor port and the descriptor search -/

theorem actOnPass_rest (p : ProcTxn) (d : Descriptor) (s : State) : KeepsRest s (actOnPass p d s) := by
  unfold actOnPass
  split
  · exact refuse_rest ..
  · exact refuse_rest ..
  · exact startWork_rest ..

theorem actOnWindow_rest (p : ProcTxn) (index : BitVec 5) (d : Descriptor) (s : State) :
    KeepsRest s (actOnWindow p index d s) := by
  unfold actOnWindow
  split
  · exact actOnPass_rest ..
  · exact startWork_rest ..
  · split
    · exact journalWrite_rest ..
    · exact refuse_rest ..
  · exact startWork_rest ..
  · exact refuse_rest ..
  · exact refuse_rest ..

theorem windowAccess_rest (p : ProcTxn) (s : State) : KeepsRest s (windowAccess p s) := by
  unfold windowAccess
  split
  · rename_i i e _
    exact .trans (t := { s with cache := s.cache.touch i }) (.still rfl rfl rfl) (actOnWindow_rest ..)
  · exact startWork_rest ..

theorem pageAccess_rest (p : ProcTxn) (s : State) : KeepsRest s (pageAccess p s) := by
  unfold pageAccess
  split
  · exact startWork_rest ..
  · exact pageWrite_rest ..

theorem routed_rest (p : ProcTxn) (s : State) : KeepsRest s (routed p s) := by
  unfold routed
  split
  · split
    · exact pageAccess_rest ..
    · split
      · exact windowAccess_rest ..
      · exact startWork_rest ..
  · exact startWork_rest ..

theorem present_rest (p : ProcTxn) (s : State) : KeepsRest s (present p s) := by
  unfold present
  split
  · exact .refl s
  · split
    · exact answer_rest ..
    · split
      · exact refuse_rest ..
      · exact routed_rest ..

theorem countSearch_rest (s : State) : KeepsRest s (countSearch s) := setJob_rest ..

theorem searchFault_rest (a : Word) (s : State) : KeepsRest s (searchFault a s) :=
  ((countSearch_rest s).trans (logError_rest ..)).trans (answer_rest ..)

theorem scanDecision_rest (p : ProcTxn) (got : List (Word × Word)) (s : State) :
    KeepsRest s (scanDecision p got s) := by
  unfold scanDecision
  split
  · exact (countSearch_rest s).trans (refuse_rest ..)
  · split
    · exact (countSearch_rest s).trans (refuse_rest ..)
    · exact startWork_rest ..

theorem scanReadAnswer_rest (ans : ReadAnswer 2) (s : State) : KeepsRest s (scanReadAnswer ans s) := by
  have hfree := portAnswered_rest s
  unfold scanReadAnswer
  split
  · cases ans with
    | fault => exact hfree.trans (searchFault_rest ..)
    | ok v =>
      simp only []
      split
      · exact hfree.trans (startWork_rest ..)
      · exact hfree.trans (scanDecision_rest ..)
  all_goals exact .refl s

theorem searchFound_rest (p : ProcTxn) (index : BitVec 5) (d : Descriptor) (s : State) :
    KeepsRest s (searchFound p index d s) :=
  .trans (t := { countSearch s with cache := (countSearch s).cache.fill ⟨index, d⟩ })
    (.still rfl rfl rfl) (actOnWindow_rest ..)

theorem detailReadAnswer_rest (ans : ReadAnswer 2) (s : State) :
    KeepsRest s (detailReadAnswer ans s) := by
  have hfree := portAnswered_rest s
  unfold detailReadAnswer
  split
  · cases ans with
    | fault => exact hfree.trans (searchFault_rest ..)
    | ok v =>
      simp only []
      split
      · exact hfree.trans (searchFound_rest ..)
      · exact (hfree.trans (countSearch_rest _)).trans (refuse_rest ..)
  all_goals exact .refl s

theorem forwardAnswer_rest (ans : ForwardAnswer) (s : State) : KeepsRest s (forwardAnswer ans s) := by
  unfold forwardAnswer
  split
  · cases ans with
    | ok data => exact (portAnswered_rest s).trans (answer_rest ..)
    | fault => exact (portAnswered_rest s).trans (refuse_rest ..)
  all_goals exact .refl s

/-! ### Every step -/

section Rows

variable {s t : State}

/-- A row of the kind that always acts. -/
theorem goOn_rest {u : State} (h : goOn u = .next t) (hu : KeepsRest s u) : KeepsRest s t := by
  obtain rfl := Host.Outcome.next.inj h
  exact hu

theorem act_rest (f : State → State) (hf : ∀ s, KeepsRest s (f s)) (s : State) :
    KeepsRest s (s.act f) := by
  unfold State.act
  split
  · exact .refl s
  · exact (hf s).trans (.still rfl rfl rfl)

/-- A row that does nothing under PORST_N. -/
theorem goOn_act_rest {f : State → State} (h : goOn (s.act f) = .next t)
    (hf : ∀ s, KeepsRest s (f s)) : KeepsRest s t := goOn_rest h (act_rest f hf s)

/-- An answer row. -/
theorem actAnswer_rest {α : Type} {f : α → State → State} {a : Arrived α}
    (h : s.actAnswer f a = .next t) (hf : ∀ x s, KeepsRest s (f x s)) : KeepsRest s t := by
  rcases actAnswer_next h with rfl | ⟨late, x, -, rfl⟩
  · exact .refl _
  · exact (act_rest (f x) (hf x) s).trans (.still rfl rfl rfl)

/-- A row by which the processor presents a transaction. -/
theorem presented_rest {p : ProcTxn} (h : presented p s = .next t) : KeepsRest s t :=
  goOn_rest h ((present_rest p s).trans (.still rfl rfl rfl))

end Rows

theorem exec_rest {i : Instr} {s t : State} (h : exec i s = .next t) : KeepsRest s t := by
  cases i with
  | powerOnReset => exact goOn_rest h (powerOnReset_rest s)
  | porstNegation levels => exact goOn_rest h (porstNegation_rest levels s)
  | busReset => exact goOn_rest h (busReset_rest s)
  | busrstNegation => exact goOn_rest h (busrstNegation_rest s)
  | bootAttempt => exact goOn_act_rest h bootAttempt_rest
  | bootBusBusyTimeout => exact goOn_act_rest h bootBusBusyTimeout_rest
  | bootDeviceNack => exact goOn_act_rest h bootDeviceNack_rest
  | bootAddressNack => exact goOn_act_rest h bootAddressNack_rest
  | bootStretchTimeout got => exact goOn_act_rest h (bootStretchTimeout_rest got)
  | bootArbitrationLost lost => exact goOn_act_rest h (bootArbitrationLost_rest lost)
  | bootReadEnd bytes => exact goOn_act_rest h (bootReadEnd_rest bytes)
  | initWriteAnswer ans => exact actAnswer_rest h initWriteAnswer_rest
  | scanReadAnswer ans => exact actAnswer_rest h scanReadAnswer_rest
  | detailReadAnswer ans => exact actAnswer_rest h detailReadAnswer_rest
  | forwardAnswer ans => exact actAnswer_rest h forwardAnswer_rest
  | journalWriteAnswer ans => exact actAnswer_rest h journalWriteAnswer_rest
  | postWriteAnswer ans => exact actAnswer_rest h postWriteAnswer_rest
  | processorRead | processorWrite | journalWindowWrite | descriptorTableWrite | controlBlockWrite
  | breakFilterTimeWrite | breakPolarityWrite | ackTimeoutWrite | acknowledgeWrite
  | interruptEnableWrite => exact presented_rest h
  | openJob | closeJob | jobBadCmd => exact presented_rest h
  | attach | detach | reattach | hold | resume | clear | release | stationBadCmd =>
    exact presented_rest h
  | openComplete ans => exact actAnswer_rest h openComplete_rest
  | attachComplete ans => exact actAnswer_rest h attachComplete_rest
  | releaseComplete k => exact goOn_act_rest h (releaseComplete_rest k)
  | replayTurnGrant => exact goOn_act_rest h replayTurnGrant_rest
  | replayReadAnswer ans => exact actAnswer_rest h replayReadAnswer_rest
  | replayWriteAnswer ans => exact actAnswer_rest h replayWriteAnswer_rest
  | arbiterGrant => exact goOn_act_rest h arbiterGrant_rest
  | statusWriteAnswer ans => exact actAnswer_rest h statusWriteAnswer_rest
  | drainReadAnswer ans => exact actAnswer_rest h drainReadAnswer_rest
  | frameEnd k => exact goOn_act_rest h (frameEnd_rest k)
  | accFrame k => exact goOn_act_rest h (accFrame_rest k)
  | doneFrame k => exact goOn_act_rest h (doneFrame_rest k)
  | nakCheck k => exact goOn_act_rest h (nakCheck_rest k)
  | nakFull k => exact goOn_act_rest h (nakFull_rest k)
  | nakTravel k => exact goOn_act_rest h (nakTravel_rest k)
  | fltFrame k => exact goOn_act_rest h (fltFrame_rest k)
  | ackTimerExpiry k => exact goOn_act_rest h (ackTimerExpiry_rest k)
  | haltBegin k => exact goOn_act_rest h (haltBegin_rest k)
  | goBegin k => exact goOn_act_rest h (goBegin_rest k)
  | segBegin k => exact goOn_act_rest h (segBegin_rest k)
  | resendBegin k => exact goOn_act_rest h (resendBegin_rest k)
  | frameTransmitEnd k => exact goOn_act_rest h (frameTransmitEnd_rest k)
  | readyChange k asserted => exact goOn_rest h (readyChange_rest k asserted s)
  | breakLineChange k level => exact goOn_act_rest h (breakLineChange_rest k level)
  | breakQualifiedChange k => exact goOn_act_rest h (breakQualifiedChange_rest k)
  | stopLineChange level => exact goOn_act_rest h (stopLineChange_rest level)
  | stopAssertion => exact goOn_act_rest h stopAssertion_rest
  | stopNegation => exact goOn_act_rest h stopNegation_rest
  | characterComplete k sample => exact goOn_act_rest h (characterComplete_rest k sample)
  | lineReturnedToMark k => exact goOn_act_rest h (lineReturnedToMark_rest k)

theorem step_rest {s t : State} (h : step s = .next t) : KeepsRest s t := by
  unfold step at h
  split at h
  · rename_i c rest _
    exact .trans (t := { s with pending := rest }) (.still rfl rfl rfl) (exec_rest h)
  · obtain rfl := Host.Outcome.next.inj h
    exact .still rfl rfl rfl

/-- Settles O57: the three conditions are the three parts of what every step keeps. -/
theorem stepsKeepDrivesAtRest : Obligations.StepsKeepDrivesAtRest :=
  ⟨fun _ _ hs h => (step_rest h).stopped hs, fun _ _ hs h => (step_rest h).rests hs,
    fun _ _ hs h => (step_rest h).off hs⟩

end Sys2Proof.Machine
end

section
/-! Station commands: what each does as its word is taken (R60, R61, R64 to R70). -/

namespace Sys2Proof.Machine

/-! ### A command as its word is taken -/

theorem cmdSeq_attachWord (spare : BitVec 12) (start : Seq) : cmdSeq (attachWord spare start) = start := by
  unfold cmdSeq attachWord
  ext i hi
  rw [BitVec.getElem_extractLsb', BitVec.getLsbD_append, BitVec.getLsbD_append]
  simp only [show ¬16 + i < 4 by omega, show ¬16 + i - 4 < 12 by omega, if_false]
  rw [show 16 + i - 4 - 12 = i by omega]
  rfl

theorem startStationCommand_attach (k : StationId) (spare : BitVec 12) (start : Seq) (s : State) :
    startStationCommand k (attachWord spare start) s = startAttach k (attachWord spare start) s := by
  rw [startStationCommand, cmdCode_attachWord]
  rfl

theorem startStationCommand_detach (k : StationId) (arg : BitVec 28) (s : State) :
    startStationCommand k (commandWord 2#4 arg) s = startDetach k s := by
  rw [startStationCommand, cmdCode_commandWord]
  rfl

theorem startStationCommand_reattach (k : StationId) (arg : BitVec 28) (s : State) :
    startStationCommand k (commandWord 3#4 arg) s = startReattach k s := by
  rw [startStationCommand, cmdCode_commandWord]
  rfl

theorem startStationCommand_hold (k : StationId) (arg : BitVec 28) (s : State) :
    startStationCommand k (commandWord 4#4 arg) s = startHold k s := by
  rw [startStationCommand, cmdCode_commandWord]
  rfl

theorem startStationCommand_resume (k : StationId) (arg : BitVec 28) (s : State) :
    startStationCommand k (commandWord 5#4 arg) s = startResume k s := by
  rw [startStationCommand, cmdCode_commandWord]
  rfl

theorem startStationCommand_clear (k : StationId) (arg : BitVec 28) (s : State) :
    startStationCommand k (commandWord 6#4 arg) s = startClear k s := by
  rw [startStationCommand, cmdCode_commandWord]
  rfl

theorem startStationCommand_release (k : StationId) (arg : BitVec 28) (s : State) :
    startStationCommand k (commandWord 7#4 arg) s = startRelease k s := by
  rw [startStationCommand, cmdCode_commandWord]
  rfl

theorem startStationCommand_undefined (k : StationId) {code : BitVec 4} (arg : BitVec 28) (h : 8#4 ≤ code)
    (s : State) : startStationCommand k (commandWord code arg) s = s.completeStation k code .badCmd := by
  have hc : 8 ≤ code.toNat := h
  unfold startStationCommand
  rw [cmdCode_commandWord]
  split
  case h_9 => rfl
  all_goals omega

/-- The feed that a command's checks read is that before the write. -/
theorem atStationCommand_feed {s : State} {k : StationId} {pre : List Word} (w : Word)
    (ht : StationWriteTaken s k pre) :
    (s.atStationCommand k pre w).stations[k].feed = s.stations[k].feed :=
  (atStationCommand_keeps s k k pre w ht.1).1

theorem atStationCommand_job {s : State} {k : StationId} {pre : List Word} (w : Word)
    (ht : StationWriteTaken s k pre) : (s.atStationCommand k pre w).job = s.job := by
  obtain ⟨-, -, hjob, -⟩ := atStationCommand_keeps s k k pre w ht.1
  exact hjob

/-- A command that completes with no bit of its own but the completion. -/
theorem stationCommandEnds_plain {i : Instr} {s v : State} {r : Regions} {k : StationId} {pre : List Word}
    {w : Word} {code : BitVec 4} {result : Result} (hp : PortTakes s r) (ht : StationWriteTaken s k pre)
    (hi : exec i s = stationCommand k pre w s)
    (hs : startStationCommand k w (s.atStationCommand k pre w) = v.completeStation k code result)
    (hw : v.writer = (s.atStationCommand k pre w).writer) :
    StationCommandEnds i s v k (writeUpTo s (stationBlockOffset k 15) pre w) code result 0#32 :=
  stationCommandEnds_taken hp ht hi (by rw [owe_zero, hs]) hw

/-! ### A command that leaves its slot busy (R161) -/

/-- The busy bit of a station status record (Table 12-8). -/
theorem stationStatusLower_busy (st : Station) (brk : Monitor) :
    (stationStatusLower st brk)[1].getLsbD 8 = stationBusy st := by
  have hcommand : (place st.lastCommand.toNat 0).getLsbD 8 = false := by
    generalize st.lastCommand = c
    revert c
    decide
  have hresult : (place (resultCode st.lastResult) 4).getLsbD 8 = false := by
    cases st.lastResult <;> decide
  have hbusy : (placeFlag (stationBusy st) 8).getLsbD 8 = stationBusy st := by
    cases stationBusy st <;> decide
  have hbreak : (placeFlag brk.qualified 12).getLsbD 8 = false := by
    cases brk.qualified <;> decide
  show (_ ||| _ ||| _ ||| _ : Word).getLsbD 8 = _
  simp only [BitVec.getLsbD_or, hcommand, hresult, hbusy, hbreak, Bool.false_or, Bool.or_false]

/-- A station's slot taken up marks its record (R163). -/
theorem recordChanged_station_busy {s t : State} {k : StationId} (hs : s.stations[k].progress = .idle)
    (ht : t.stations[k].progress ≠ .idle) : recordChanged s t (.station k) = true := by
  unfold recordChanged
  rw [Bool.or_eq_true, bne_iff_ne]
  refine .inl fun h => ?_
  have hbit := congrArg (fun r : Record => r[1].getLsbD 8) h
  simp only [recordLower, stationStatusLower_busy] at hbit
  rw [(stationBusy_iff _).mpr hs] at hbit
  exact ht ((stationBusy_iff _).mp hbit.symm)

/-- A command that its start leaves under way: the slot is busy, and the write is forwarded. -/
theorem stationCommandWaits {i : Instr} {s v : State} {r : Regions} {k : StationId} {pre : List Word}
    {w : Word} (hp : PortTakes s r) (ht : StationWriteTaken s k pre)
    (hi : exec i s = stationCommand k pre w s)
    (hs : startStationCommand k w (s.atStationCommand k pre w) = v)
    (hw : v.writer = (s.atStationCommand k pre w).writer) (hbusy : v.stations[k].progress ≠ .idle) :
    EndsIn i s (v.forwardsPage (writeUpTo s (stationBlockOffset k 15) pre w))
      (s.atStationCommand k pre w).writer.owed [.station k] := by
  obtain ⟨-, -, -, -, hpending, hwrite, hpos, hkept⟩ := atStationCommand_keeps s k k pre w ht.1
  have hx : exec i s = _ := hi.trans (stationCommand_starts w hp ht)
  obtain ⟨-, -, hidle⟩ := ht
  rw [hs] at hx
  rw [← hw] at hpending hwrite hpos hkept ⊢
  refine ⟨_, hx, reports_of rfl rfl hpending hwrite hpos hkept fun q hq => .inr ?_⟩
  rw [List.mem_singleton.mp hq]
  exact recordChanged_station_busy hidle hbusy

/-! ### ATTACH and the undefined codes -/

/-- Settles O34: each check from the state in which the word acts, where the feed and the job are those
before the write. -/
theorem attachTaken : Obligations.AttachTaken := by
  intro s r k pre spare start code arg hp ht txn w u
  have hfeed : u.stations[k].feed = s.stations[k].feed := atStationCommand_feed w ht
  have hjob : u.job = s.job := atStationCommand_job w ht
  have hstart : startStationCommand k w u = startAttach k w u := startStationCommand_attach ..
  refine ⟨fun hon => ?_, fun hoff hnone => ?_, fun hoff hsome => ?_, fun hcode => ?_⟩
  · exact stationCommandEnds_plain hp ht rfl (hstart.trans (if_pos (hfeed ▸ hon))) rfl
  · refine stationCommandEnds_plain hp ht rfl (hstart.trans ?_) rfl
    exact (if_neg (fun h => h (hfeed.trans hoff))).trans (if_pos (hjob ▸ hnone))
  · have hwaits : startStationCommand k w u = u.setStation k { u.stations[k] with
        progress := .attaching (cbRingIndex u.shadows.stations[k]) start } := by
      rw [hstart, startAttach, if_neg (fun h => h (hfeed.trans hoff)), if_neg (fun h => hsome (hjob ▸ h)),
        cmdSeq_attachWord]
    refine stationCommandWaits (i := .attach k pre spare start) hp ht rfl hwaits rfl ?_
    rw [setStation_get]
    exact fun h => nomatch h
  · exact stationCommandEnds_plain hp ht rfl (startStationCommand_undefined k arg hcode _) rfl

/-! ### DETACH and REATTACH -/

/-- Settles O36: each command from the state in which its word acts, by the feed. -/
theorem detachAndReattach : Obligations.DetachAndReattach := by
  intro s r k pre arg hp ht txn w u out left y v back
  have hfeed : u.stations[k].feed = s.stations[k].feed := atStationCommand_feed w ht
  have hback : v.stations[k].feed = s.stations[k].feed := atStationCommand_feed y ht
  have hdetach : startStationCommand k w u = startDetach k u := startStationCommand_detach ..
  have hreattach : startStationCommand k y v = startReattach k v := startStationCommand_reattach ..
  refine ⟨fun hlive => ?_, fun hcatchup => ?_, fun hlive hcatchup => ?_, fun hdet => ?_, fun hdet => ?_⟩
  · refine stationCommandEnds_taken hp ht rfl (hdetach.trans ?_) rfl
    unfold startDetach
    rw [hfeed.trans hlive]
    exact congrArg (State.completeStation · k 2#4 .ok) (detachFeed_live (hfeed.trans hlive))
  · refine stationCommandEnds_taken hp ht rfl (hdetach.trans ?_) rfl
    unfold startDetach
    rw [hfeed.trans hcatchup]
    exact congrArg (State.completeStation · k 2#4 .ok) (detachFeed_catchup (hfeed.trans hcatchup))
  · refine stationCommandEnds_plain hp ht rfl (hdetach.trans ?_) rfl
    unfold startDetach
    rw [hfeed]
    cases hf : s.stations[k].feed with
    | live => exact absurd hf hlive
    | catchup => exact absurd hf hcatchup
    | off => rfl
    | detached => rfl
    | lost _ => rfl
  · refine stationCommandEnds_plain hp ht rfl (hreattach.trans ((if_pos (hback.trans hdet)).trans ?_)) rfl
    simp only [tellGate_eq, setStation_get]
    rfl
  · exact stationCommandEnds_plain hp ht rfl (hreattach.trans (if_neg fun h => hdet (hback.symm.trans h))) rfl

/-! ### HOLD and CLEAR -/

/-- The control frame of an entry with a HALT (R57). -/
theorem placeHalt_some (l : Link) (r : Byte) :
    l.placeHalt (some r) = { l with slot := if l.slot = .go then .empty else .halt r } := by
  unfold Link.placeHalt
  cases h : l.slot <;> rfl

/-- The control frame of an entry without one: a GO is withdrawn (R57). -/
theorem placeHalt_none (l : Link) :
    l.placeHalt none = { l with slot := if l.slot = .go then .empty else l.slot } := by
  unfold Link.placeHalt
  by_cases hgo : l.slot = .go
  · rw [if_pos hgo, hgo]
  · rw [if_neg hgo]
    cases h : l.slot with
    | go => exact absurd h hgo
    | empty => exact congrArg (fun c => { l with slot := c }) h
    | halt b => exact congrArg (fun c => { l with slot := c }) h

/-- A frame void in transmission keeps its bytes and its time; only a SEG changes (R115). -/
theorem Tx.void_spec (t : Tx) : t.void.bytes = t.bytes ∧ t.void.start = t.start
    ∧ (∀ q v, t.kind = .seg q v → t.void.kind = .seg q true)
    ∧ (∀ q v, t.kind = .resend q v → t.void.kind = .resend q true)
    ∧ (t.kind = .halt ∨ t.kind = .go → t.void = t) := by
  unfold Tx.void
  cases h : t.kind <;> simp

/-- HOLD of a RUNNING drive, as one update (R66). -/
theorem startHold_running {s : State} {k : StationId} (h : s.stations[k].drive = .running) :
    startHold k s = (s.moved k
      { s.stations[k] with drive := .held .operator, send := s.stations[k].done }
      (s.links[k].rewind.placeHalt (some 2#8))).completeStation k 4#4 .ok := by
  have hheld : (s.requestHeld k .operator).weighDrain k = s.heldBy k .operator := by
    rw [requestHeld_weigh, if_neg (fun hh => nomatch hh.2)]
  unfold startHold
  rw [h, hheld]
  unfold State.heldBy
  simp only [h, if_true]
  rfl

/-- CLEAR of a drive in FAULT, as one update with the event bit owed (R68, R72). -/
theorem startClear_fault {s : State} {k : StationId} {c : FaultCode} (h : s.stations[k].drive = .fault c) :
    startClear k s = ((s.moved k
      { s.stations[k] with drive := .held .cleared, send := s.stations[k].done }
      (s.links[k].rewind.placeHalt none)).owe (.station k) (eventBit k)).completeStation k 6#4 .ok := by
  unfold startClear
  rw [h]
  simp only [oweEvent_weighDrain, enterDrive_weigh]
  rfl

theorem startClear_other {s : State} {k : StationId} (h : ∀ c, s.stations[k].drive ≠ .fault c) :
    startClear k s = s.completeStation k 6#4 .badState := by
  unfold startClear
  cases hd : s.stations[k].drive with
  | fault c => exact absurd hd (h c)
  | stopped => rfl
  | running => rfl
  | held _ => rfl

/-- Settles O37: each command from the state in which its word acts, by the drive. -/
theorem holdAndClear : Obligations.HoldAndClear := by
  refine ⟨fun l r => ⟨rfl, placeHalt_some l r, placeHalt_none l, Tx.void_spec⟩, ?_⟩
  intro s r k pre arg hp ht txn w u l rested y v
  have hhold : startStationCommand k w u = startHold k u := startStationCommand_hold ..
  have hclear : startStationCommand k y v = startClear k v := startStationCommand_clear ..
  refine ⟨fun hrun => ?_, fun h hheld => ?_, fun hout => ?_, fun c hfault => ?_, fun hfault => ?_⟩
  · refine stationCommandEnds_plain hp ht rfl (hhold.trans ?_) rfl
    rw [startHold_running hrun, placeHalt_some]
    rfl
  · refine stationCommandEnds_plain hp ht rfl (hhold.trans ?_) rfl
    unfold startHold
    rw [hheld]
  · refine stationCommandEnds_plain hp ht rfl (hhold.trans ?_) rfl
    unfold startHold
    rcases hout with hst | ⟨c, hc⟩
    · rw [hst]
    · rw [hc]
  · exact stationCommandEnds_taken hp ht rfl (hclear.trans (startClear_fault hfault)) rfl
  · exact stationCommandEnds_plain hp ht rfl (hclear.trans (startClear_other hfault)) rfl

/-! ### RESUME -/

theorem breakActive_iff (p : Polarity) (m : Monitor) : breakActive p m = true ↔
    (p = .rising ∧ m.qualified = true) ∨ (p = .falling ∧ m.qualified = false) := by
  cases p <;> simp [breakActive]

theorem haltPending_iff (l : Link) : haltPending l = true ↔ ∃ h, l.slot = .halt h := by
  unfold haltPending
  cases l.slot <;> simp

/-- Outside HELD, RESUME's first check fails (R67). -/
theorem resumeResult_notHeld {k : StationId} {s : State} (h : ¬∃ r, s.stations[k].drive = .held r) :
    resumeResult k s = .badState := by
  unfold resumeResult
  cases hd : s.stations[k].drive with
  | held r => exact absurd ⟨r, hd⟩ h
  | stopped => rfl
  | running => rfl
  | fault _ => rfl

/-- In HELD, the checks that follow decide (R67). -/
theorem resumeResult_held {k : StationId} {s : State} (h : ∃ r, s.stations[k].drive = .held r) :
    resumeResult k s =
      if s.stop.qualified = false then .stopActive
      else if breakActive (cbPolarity s.shadows.stations[k]) s.breaks[k] then .breakActive
      else if haltPending s.links[k] then .haltPending
      else .ok := by
  obtain ⟨r, hr⟩ := h
  unfold resumeResult
  rw [hr]

theorem startResume_fails {k : StationId} {s : State} {result : Result} (h : resumeResult k s = result)
    (hr : result ≠ .ok) : startResume k s = s.completeStation k 5#4 result := by
  unfold startResume
  rw [h, if_neg hr]

/-- Settles O38: the checks in their order, from the state in which the word acts. -/
theorem resumeChecks : Obligations.ResumeChecks := by
  intro s r k pre arg hp ht w u ends isHeld stopped active queued
  have hresume : startStationCommand k w u = startResume k u := startStationCommand_resume ..
  have hactive : breakActive (cbPolarity u.shadows.stations[k]) u.breaks[k] = true ↔ active :=
    breakActive_iff ..
  have hqueued : haltPending u.links[k] = true ↔ queued := haltPending_iff _
  have hfails : ∀ {result : Result}, resumeResult k u = result → result ≠ .ok → ends u result :=
    fun h hr => stationCommandEnds_plain hp ht rfl (hresume.trans (startResume_fails h hr)) rfl
  refine ⟨fun hh => hfails (resumeResult_notHeld hh) (by decide), fun hh hs => hfails ?_ (by decide),
    fun hh hs ha => hfails ?_ (by decide), fun hh hs ha hq => hfails ?_ (by decide),
    fun hh hs ha hq => ?_⟩
  · rw [resumeResult_held hh, if_pos hs]
  · rw [resumeResult_held hh, if_neg hs, if_pos (hactive.mpr ha)]
  · rw [resumeResult_held hh, if_neg hs, if_neg (mt hactive.mp ha), if_pos (hqueued.mpr hq)]
  · have hok : resumeResult k u = .ok := by
      rw [resumeResult_held hh, if_neg hs, if_neg (mt hactive.mp ha), if_neg (mt hqueued.mp hq)]
    exact stationCommandEnds_plain hp ht rfl (hresume.trans (if_pos hok)) rfl

/-! ### RELEASE -/

theorem releaseReady_iff (l : Link) : releaseReady l = true ↔ LinkQuiet l := by
  unfold releaseReady LinkQuiet
  rw [Bool.and_eq_true, Option.isNone_iff_eq_none, Bool.not_eq_true', ← Bool.not_eq_true, haltPending_iff,
    not_exists]

/-- RELEASE of a station that is not OFF, by whether its link is quiet (R69). -/
theorem startRelease_eq {k : StationId} {s : State} (h : s.stations[k].feed ≠ .off) :
    startRelease k s =
      if releaseReady (s.heldForRelease k).links[k] then finishRelease k (s.heldForRelease k)
      else (s.heldForRelease k).setStation k
        { (s.heldForRelease k).stations[k] with progress := .releasing } := by
  have hheld : (s.requestHeld k .operator).weighDrain k = s.heldForRelease k := by
    rw [requestHeld_weigh, if_neg (fun hh => nomatch hh.2)]
    rfl
  unfold startRelease
  rw [if_neg h, hheld]

theorem heldForRelease_writer (s : State) (k : StationId) : (s.heldForRelease k).writer = s.writer :=
  heldBy_writer s k .operator

/-- A released station's command is complete already. -/
theorem released_stationDone (s : State) (k : StationId) :
    (s.released k).stationDone k 7#4 .ok = s.released k := by
  unfold State.stationDone State.released
  simp only [get_set_self, vector_set_set]

theorem finishRelease_completes (k : StationId) (s : State) :
    finishRelease k s = (s.released k).completeStation k 7#4 .ok := by
  rw [released_eq]
  exact congrArg (fun t : State => (t.mark (.station k)).owe (.station k) (commandDoneBit k))
    (released_stationDone s k).symm

/-- Settles O39: RELEASE as its word is taken, and as it completes later. -/
theorem releaseCompletes : Obligations.ReleaseCompletes := by
  intro s r k pre arg
  refine ⟨?_, fun hp hrel hquiet => ?_⟩
  · intro hp ht w txn u t proc
    have hfeed : u.stations[k].feed = s.stations[k].feed := atStationCommand_feed w ht
    have hrelease : startStationCommand k w u = startRelease k u := startStationCommand_release ..
    refine ⟨fun hoff => ?_, fun hon hquiet => ?_, fun hon hbusy => ?_⟩
    · exact stationCommandEnds_plain hp ht rfl (hrelease.trans (if_pos (hfeed.trans hoff))) rfl
    · have hdone : startRelease k u = (t.released k).completeStation k 7#4 .ok := by
        rw [startRelease_eq (hfeed ▸ hon), if_pos ((releaseReady_iff _).mpr hquiet),
          finishRelease_completes]
      have hends : StationCommandEnds (.release k pre arg) s (t.released k) k txn 7#4 .ok 0#32 :=
        stationCommandEnds_plain hp ht rfl (hrelease.trans hdone) (heldForRelease_writer u k)
      unfold StationCommandEnds at hends
      rw [released_stationDone, BitVec.zero_or] at hends
      rw [← show (t.released k).writer = u.writer from heldForRelease_writer u k]
      exact hends
    · have hwaits : startRelease k u = t.setStation k { t.stations[k] with progress := .releasing } := by
        rw [startRelease_eq (hfeed ▸ hon), if_neg (mt (releaseReady_iff _).mp hbusy)]
      have hends := stationCommandWaits (i := .release k pre arg) hp ht rfl (hrelease.trans hwaits)
        (heldForRelease_writer u k) (by rw [setStation_get]; exact fun h => nomatch h)
      exact hends
  · have hrow : exec (.releaseComplete k) s = .next (report s (finishRelease k s)) := by
      show goOn (s.act (releaseComplete k)) = _
      rw [act_running hp, releaseComplete, if_pos ⟨hrel, (releaseReady_iff _).mpr hquiet⟩]
      rfl
    rw [released_eq] at hrow
    refine ⟨_, hrow, reports_of rfl rfl rfl rfl rfl (fun q hq => Marks.get_set_kept _ _ _ hq)
      fun q hq => .inl ?_⟩
    rw [List.mem_singleton.mp hq]
    exact Marks.get_set_self s.writer.marks (.station k) true

end Sys2Proof.Machine
end

section
/-! How ATTACH completes (R62, R63). -/

namespace Sys2Proof.Machine

/-! ### The tests of R62 -/

theorem fieldOf_kind_ring (w0 : Word) : descKind w0 = some .ring ↔ fieldOf w0 4 2 = 2 := by
  unfold descKind
  split <;> simp_all

/-- The tests that ATTACH of station k makes on its descriptor, from the bits and bytes (R62 case 2). -/
theorem ringAccepted_iff (page : Word) (k : StationId) (v : Vector Word 4) :
    ringAccepted page k (descOf v) = true ↔ AttachesRing page k v := by
  have hclear : clearOfPage page v[1] (windowBytes v) = true ↔
      (v[1].toNat + windowBytes v ≤ page.toNat ∨ page.toNat + 2048 ≤ v[1].toNat) := by
    unfold clearOfPage pageSize
    rw [Bool.not_eq_true', blocksMeet_eq_false]
    omega
  have halign : alignedTo v[1] (windowBytes v) = true ↔ v[1].toNat % windowBytes v = 0 := beq_iff_eq
  unfold ringAccepted AttachesRing DescriptorSound
  rw [← hclear, ← halign, ← fieldOf_kind_ring]
  simp only [Bool.and_eq_true, beq_iff_eq, noReserved, bne_iff_ne, Option.isSome_iff_exists]
  constructor
  · rintro ⟨⟨⟨⟨⟨⟨hvalid, hkind⟩, hstation⟩, hsize⟩, ⟨-, hprio⟩, hacc⟩, hal⟩, hcl⟩
    exact ⟨⟨hvalid, hprio, hacc, hal, hcl⟩, hkind, hstation, of_decide_eq_true hsize⟩
  · rintro ⟨⟨hvalid, hprio, hacc, hal, hcl⟩, hkind, hstation, hsize⟩
    exact ⟨⟨⟨⟨⟨⟨hvalid, hkind⟩, hstation⟩, decide_eq_true hsize⟩, ⟨⟨_, hkind⟩, hprio⟩, hacc⟩, hal⟩, hcl⟩

/-- The starting sequences that ATTACH accepts (R22, R62 case 3). -/
theorem startAccepted_iff (j : Job) (q : Seq) : startAccepted j q = true ↔ StartsAt j q := by
  unfold startAccepted StartsAt retained overwrittenSeq
  rw [Bool.and_eq_true, Bool.or_eq_true, decide_eq_true_eq, beq_iff_eq, Nat.le_min, Bool.not_eq_true',
    ← Bool.not_eq_true, Bool.and_eq_true, beq_iff_eq]

/-! ### The station after ATTACH -/

/-- A station command that completes: what it reports, from a state `v` that is `b` but for the writer, in
which there may already be more marks and owed bits (R162). -/
theorem reports_completeStation {s b v : State} {k : StationId} (code : BitVec 4) (result : Result)
    {marked : List RecordId} (hb : v = { b with writer := v.writer })
    (hpending : v.writer.pending = s.writer.pending) (hwrite : v.writer.write = s.writer.write)
    (hpos : v.writer.position = s.writer.position)
    (hkept : ∀ r, s.writer.marks.get r = true → v.writer.marks.get r = true)
    (hmarked : ∀ r ∈ marked, r = .station k ∨ v.writer.marks.get r = true) :
    Reports s (b.stationDone k code result) (v.writer.owed.plus (.station k) (commandDoneBit k)) marked
      (report s (v.completeStation k code result)) :=
  reports_of (congrArg (fun x : State => { x.stationDone k code result with
      writer := (v.completeStation k code result).writer }) hb) rfl hpending hwrite hpos
    (fun r hr => Marks.get_set_kept _ _ _ (hkept r hr))
    fun r hr => .inl <| by
      rcases hmarked r hr with rfl | h
      · exact Marks.get_set_self v.writer.marks (.station k) true
      · exact Marks.get_set_kept _ _ _ h

/-- A station attached, as one update: HELD with reason ATTACH, the link rewound, the gate told (R63). -/
theorem attachStation_eq (k : StationId) (index : BitVec 5) (q : Seq) (d : Descriptor) (s : State) :
    attachStation k index q d s =
      let st : Station := { attachedStation s.stations[k] s.job index q d with drive := .held .attach }
      { s with
        stations := s.stations.set k st
        links := s.links.set k (s.links[k].rewind.placeHalt none)
        gate := s.gate.told k st } := by
  unfold attachStation
  rw [enterDrive_eq, setStation_get]
  simp only [State.setStation, vector_set_set]
  rfl

/-- The result that ATTACH's descriptor and its starting sequence give (R62). -/
theorem attachResult_eq (k : StationId) (q : Seq) (v : Vector Word 4) (s : State) :
    attachResult k q (.ok v) s =
      if ringAccepted (pageBase s) k (descOf v) then if startAccepted s.job q then .ok else .badArg
      else .noRing := rfl

theorem completeAttach_fails {k : StationId} {index : BitVec 5} {q : Seq} {v : Vector Word 4} {s : State}
    {result : Result} (h : attachResult k q (.ok v) s = result) (hr : result ≠ .ok) :
    completeAttach k index q (.ok v) s = (s.discardQueue k).completeStation k 1#4 result := by
  unfold completeAttach
  simp only [h, if_neg hr]

theorem completeAttach_ok {k : StationId} {index : BitVec 5} {q : Seq} {v : Vector Word 4} {s : State}
    (h : attachResult k q (.ok v) s = .ok) : completeAttach k index q (.ok v) s =
      (attachStation k index q (descOf v) (s.discardQueue k)).completeStation k 1#4 .ok :=
  if_pos h

/-- Settles O35, by the cases of R62 in their order. -/
theorem attachCompletes : Obligations.AttachCompletes := by
  intro s k m index start v hp hport hattach st l emptied attached ends
  have hempty : s.freed.discardQueue k = emptied := discardQueue_eq s.freed k
  have hgives : ∀ ans, AnswerGives .attachComplete ans s
      (report s (completeAttach k index start ans s.freed)) := fun ans => by
    have hrow : attachComplete ans s = completeAttach k index start ans s.freed := by
      unfold attachComplete
      rw [hport]
      simp only [hattach]
      rfl
    rw [← hrow]
    exact answerGives_of (fun _ => rfl) hp
  have hends : ∀ {u : State} {result : Result},
      completeAttach k index start (.ok v) s.freed = u.completeStation k 1#4 result →
      u.writer = s.writer → ends u result := fun {u result} hu hw => by
    refine ⟨_, hu ▸ hgives (.ok v), ?_⟩
    rw [← hw]
    exact reports_completeStation 1#4 result rfl (by rw [hw]) (by rw [hw]) (by rw [hw])
      (by rw [hw]; exact fun _ h => h) fun r hr => .inl (List.mem_singleton.mp hr)
  have hring : ringAccepted (pageBase s) k (descOf v) = true ↔ AttachesRing (pageBase s) k v :=
    ringAccepted_iff ..
  have hstart : startAccepted s.job start = true ↔ StartsAt s.job start := startAccepted_iff ..
  have hresult : attachResult k start (.ok v) s.freed = _ := attachResult_eq k start v s.freed
  refine ⟨⟨_, hgives .fault, ?_⟩, fun hr => ?_, fun hr hs => ?_, fun hr hs => ?_⟩
  · have hlog := (congrArg (State.logError · .memFault .command false (descAddr s index.toNat) 0#32
      (some k)) hempty).trans (logError_eq emptied ..)
    have hfault : completeAttach k index start .fault s.freed = _ :=
      congrArg (State.completeStation · k 1#4 .noRing) hlog
    rw [hfault]
    refine reports_completeStation 1#4 .noRing rfl rfl rfl rfl (Marks.get_set_kept _ _ · ·) fun r hr => ?_
    rcases List.mem_cons.mp hr with rfl | hr
    · exact .inl rfl
    · rw [List.mem_singleton.mp hr]
      exact .inr (Marks.get_set_self s.writer.marks .errorLog true)
  · have hno : attachResult k start (.ok v) s.freed = .noRing := hresult.trans (if_neg (mt hring.mp hr))
    exact hends ((completeAttach_fails hno (by decide)).trans (by rw [hempty])) rfl
  · have hbad : attachResult k start (.ok v) s.freed = .badArg :=
      (hresult.trans (if_pos (hring.mpr hr))).trans (if_neg (mt hstart.mp hs))
    exact hends ((completeAttach_fails hbad (by decide)).trans (by rw [hempty])) rfl
  · have hok : attachResult k start (.ok v) s.freed = .ok :=
      (hresult.trans (if_pos (hring.mpr hr))).trans (if_pos (hstart.mpr hs))
    refine hends ((completeAttach_ok hok).trans ?_) rfl
    rw [hempty, attachStation_eq]
    simp only [emptied, get_set_self, vector_set_set]
    rfl

end Sys2Proof.Machine
end

section
/-! The drive's frames as they are taken: the stale ones (R107), ACC (R117), NAK(FULL) (R120), the other NAK
reasons (R121) and FLT (R122). -/

namespace Sys2Proof.Machine

/-! ### The oldest frame of the queue -/

/-- With the slot idle, the oldest frame of the queue is the one that is taken (R107). -/
theorem nextFrame_head {s : State} {k : StationId} {d : DriveFrame} {rest : List DriveFrame}
    (hidle : s.stations[k].progress = .idle) (hq : s.links[k].queue = d :: rest) :
    nextFrame s k = some d := by
  unfold nextFrame
  rw [(stationBusy_iff _).mpr hidle, hq]
  rfl

theorem popFrame_head {s : State} {k : StationId} {d : DriveFrame} {rest : List DriveFrame}
    (hq : s.links[k].queue = d :: rest) :
    s.popFrame k = { s with links := s.links.set k { s.links[k] with queue := rest } } := by
  unfold State.popFrame
  rw [hq]
  rfl

/-- What taking a frame does while the feed is not OFF, by its kind and reason (R117 to R123). -/
def frameTaken (k : StationId) : DriveFrame → State → State
  | .acc q => accTaken k q
  | .done q => doneTaken k q
  | .nak q r => if r = 1#8 then nakCheckTaken k q else if r = 2#8 then nakFullTaken k q else nakTravelTaken k q
  | .flt c => fltTaken k c

/-- The row of the oldest frame takes it (R107). -/
theorem exec_frameRow {s : State} {k : StationId} {d : DriveFrame} {rest : List DriveFrame}
    (hp : s.porst = false) (hidle : s.stations[k].progress = .idle) (hq : s.links[k].queue = d :: rest) :
    exec (frameRow k d) s = .next (report s (s.takeFrame k (frameTaken k d))) := by
  have hd := nextFrame_head hidle hq
  have hrow : ∀ {row : State → State}, row s = s.takeFrame k (frameTaken k d) →
      goOn (s.act row) = .next (report s (s.takeFrame k (frameTaken k d))) := fun hr => by
    rw [act_running hp, hr]
    rfl
  cases d with
  | acc q => exact hrow (row := accFrame k) (by rw [accFrame, hd]; rfl)
  | done q => exact hrow (row := doneFrame k) (by rw [doneFrame, hd]; rfl)
  | flt c => exact hrow (row := fltFrame k) (by rw [fltFrame, hd]; rfl)
  | nak q r =>
    unfold frameRow frameTaken at *
    by_cases hc : r = 1#8
    · simp only [if_pos hc] at hrow ⊢
      exact hrow (row := nakCheck k) (by rw [nakCheck, hd]; exact if_pos hc)
    · by_cases hf : r = 2#8
      · simp only [if_neg hc, if_pos hf] at hrow ⊢
        exact hrow (row := nakFull k) (by rw [nakFull, hd]; exact if_pos hf)
      · simp only [if_neg hc, if_neg hf] at hrow ⊢
        exact hrow (row := nakTravel k) (by rw [nakTravel, hd]; exact if_neg (not_or.mpr ⟨hc, hf⟩))

/-- While the feed is OFF the frame is stale, whatever it is (R107). -/
theorem exec_frameRow_off {s : State} {k : StationId} {d : DriveFrame} {rest : List DriveFrame}
    (hp : s.porst = false) (hidle : s.stations[k].progress = .idle) (hoff : s.stations[k].feed = .off)
    (hq : s.links[k].queue = d :: rest) : exec (frameRow k d) s =
      .next (report s
        (State.countStale { s with links := s.links.set k { s.links[k] with queue := rest } } k)) := by
  rw [exec_frameRow hp hidle hq, State.takeFrame, if_pos hoff, popFrame_head hq]

theorem exec_frameRow_on {s : State} {k : StationId} {d : DriveFrame} {rest : List DriveFrame}
    (hp : s.porst = false) (hidle : s.stations[k].progress = .idle) (hon : s.stations[k].feed ≠ .off)
    (hq : s.links[k].queue = d :: rest) : exec (frameRow k d) s =
      .next (report s
        (frameTaken k d { s with links := s.links.set k { s.links[k] with queue := rest } })) := by
  rw [exec_frameRow hp hidle hq, State.takeFrame, if_neg hon, popFrame_head hq]

/-- A frame taken as stale, as one update (R71, R107). -/
theorem countStale_popped {s : State} (k : StationId) (l : Link) :
    State.countStale { s with links := s.links.set k l } k =
      { s with
        links := s.links.set k l
        stations := s.stations.set k { s.stations[k] with counters :=
          { s.stations[k].counters with stale := satInc s.stations[k].counters.stale } } } := rfl

/-- The outstanding SEG is the one the frame names, in any phase (R117). -/
theorem segIs_iff (l : Link) (q : Seq) : segIs l q = true ↔ ∃ phase, l.outstanding = some ⟨q, phase⟩ := by
  unfold segIs
  cases h : l.outstanding with
  | none => simp
  | some o =>
    obtain ⟨p, phase⟩ := o
    simp

/-! ### ACC and NAK(FULL) -/

/-- A matching ACC, as one update with the staging condition weighed (R111, R117). -/
theorem accTaken_match {s : State} {k : StationId} {q : Seq} (h : segIs s.links[k] q = true) :
    accTaken k q s =
      let st : Station := { s.stations[k] with send := s.stations[k].send + 1#16 }
      { s with
        stations := s.stations.set k st
        links := s.links.set k (Link.drained
          { s.links[k] with outstanding := none, ackTimer := none, retry := 0, staging := .empty } st) } := by
  unfold accTaken
  rw [if_pos h, weighDrain_eq]
  simp only [State.setStation, State.setLink, get_set_self, vector_set_set]
  rfl

/-- A matching NAK(FULL), as one update (R120). -/
theorem nakFullTaken_match {s : State} {k : StationId} {q : Seq} (h : segIs s.links[k] q = true) :
    nakFullTaken k q s =
      s.setLink k { s.links[k] with outstanding := none, ackTimer := none, fullWait := true } := if_pos h

/-- Settles O47: the stale frame of a station that is OFF, then ACC and NAK(FULL) by whether they name the
outstanding SEG. -/
theorem staleAccAndFullTaken : Obligations.StaleAccAndFullTaken := by
  refine ⟨fun _ => rfl, ?_, ?_⟩
  · intro s k d rest hp hidle hoff hq o
    refine endsIn_same ?_ rfl
    rw [exec_frameRow_off hp hidle hoff hq, countStale_popped]
  intro s k q rest hp hidle hon st l sent cleared popped stale
  have hlink : popped.links[k] = { l with queue := rest } := get_set_self _ _ _
  have hseg : segIs popped.links[k] q = true ↔ ∃ phase, l.outstanding = some ⟨q, phase⟩ := by
    rw [hlink]
    exact segIs_iff _ q
  have hother : (∀ phase, l.outstanding ≠ some ⟨q, phase⟩) → ¬segIs popped.links[k] q = true :=
    fun hno h => (hseg.mp h).elim hno
  have hacc : l.queue = .acc q :: rest → exec (.accFrame k) s = .next (report s (accTaken k q popped)) :=
    exec_frameRow_on hp hidle hon
  have hfull : l.queue = .nak q 2#8 :: rest →
      exec (.nakFull k) s = .next (report s (nakFullTaken k q popped)) := exec_frameRow_on hp hidle hon
  refine ⟨fun hq => ⟨fun phase hm => ?_, fun hno => ?_⟩, fun hq => ⟨fun phase hm => ?_, fun hno => ?_⟩⟩
  · refine endsIn_same ((hacc hq).trans ?_) rfl
    rw [accTaken_match (hseg.mpr ⟨phase, hm⟩)]
    simp only [popped, get_set_self, vector_set_set]
    rfl
  · refine endsIn_same ((hacc hq).trans ?_) rfl
    rw [accTaken, if_neg (hother hno), countStale_popped]
  · rw [hfull hq, nakFullTaken_match (hseg.mpr ⟨phase, hm⟩)]
    simp only [State.setLink, popped, get_set_self, vector_set_set]
    exact congrArg Host.Outcome.next (report_of_shown rfl rfl rfl rfl rfl rfl rfl rfl)
  · refine endsIn_same ((hfull hq).trans ?_) rfl
    rw [nakFullTaken, if_neg (hother hno), countStale_popped]

/-! ### Other NAK reasons and FLT -/

/-- Settles O50: both go through the one request to enter FAULT. -/
theorem driveRefusesOrFaults : Obligations.DriveRefusesOrFaults := by
  intro s k rest hp hidle hon st popped owed
  have hseg : ∀ q, segIs popped.links[k] q = true ↔ ∃ phase, s.links[k].outstanding = some ⟨q, phase⟩ :=
    fun q => by
      rw [show popped.links[k] = { s.links[k] with queue := rest } from get_set_self _ _ _]
      exact segIs_iff _ q
  have htravel : ∀ q r, s.links[k].queue = .nak q r :: rest → r ≠ 1#8 → r ≠ 2#8 →
      exec (.nakTravel k) s = .next (report s (nakTravelTaken k q popped)) := fun q r hq hc hf => by
    have hx := exec_frameRow_on hp hidle hon hq
    rwa [frameRow, frameTaken, if_neg hc, if_neg hc, if_neg hf, if_neg hf] at hx
  have hends : ∀ {i : Instr} (c : FaultCode),
      exec i s = .next (report s ((popped.requestFault k c).weighDrain k)) →
      EndsIn i s (popped.faultedWith k c (faultHalt c) fun _ l => l) owed [] := fun {i} c hx => by
    rw [requestFault_faultedWith] at hx
    exact endsIn_owed hx (faultedWith_writer ..)
  refine ⟨fun q r hq hc hf => ⟨fun phase hm => ?_, fun hno => ?_⟩, fun c hq => ?_⟩
  · refine hends .driveRefused ((htravel q r hq hc hf).trans ?_)
    rw [nakTravelTaken, if_pos ((hseg q).mpr ⟨phase, hm⟩)]
  · refine endsIn_same ((htravel q r hq hc hf).trans ?_) rfl
    rw [nakTravelTaken, if_neg (fun h => ((hseg q).mp h).elim hno), countStale_popped]
  · exact hends (.driveFault c) (exec_frameRow_on hp hidle hon hq)

end Sys2Proof.Machine
end

section
/-! The replay engine: the grant of a turn, and the answers to its journal read and to its ring write
(R75 to R85). -/

namespace Sys2Proof.Machine

/-! ### The grant of a turn (R76, R77) -/

theorem eligible_iff (s : State) (k : StationId) : eligible s k = true ↔
    s.stations[k].feed = .catchup ∧ seqBefore s.stations[k].post s.job.frontier = true
      ∧ seqDist s.stations[k].done s.stations[k].post < s.stations[k].capacity := by
  unfold eligible occupancy
  rw [Bool.and_eq_true, Bool.and_eq_true, beq_iff_eq, decide_eq_true_iff, and_assoc]

/-- The place of a station in the cyclic order that begins after `p` (R77). -/
def cyclicPlace (p k : StationId) : Nat := (k - (p + 1)).val

theorem stationsAfter_rises (p : StationId) :
    (stationsAfter p).Pairwise (fun a b => cyclicPlace p a < cyclicPlace p b) := by
  revert p
  decide

theorem stationsAfter_complete (p k : StationId) : k ∈ stationsAfter p := by
  revert p k
  decide

/-- A turn granted or refused shows in no status record (R75). -/
theorem exec_replayTurnGrant {s : State} (hp : s.porst = false) :
    exec .replayTurnGrant s = .next (replayTurnGrant s) := by
  have hsame : report s (replayTurnGrant s) = replayTurnGrant s := by
    unfold replayTurnGrant
    split
    · exact report_of_shown rfl rfl rfl rfl rfl rfl rfl rfl
    · exact report_self s
    · exact report_self s
  show Host.Outcome.next (s.act replayTurnGrant) = _
  rw [act_running hp, hsame]

theorem replayTurnGrant_found {s : State} {k : StationId} (hturn : s.replay.turn = none)
    (hfind : (stationsAfter s.replay.position).find? (eligible s) = some k) :
    replayTurnGrant s = { s with replay := ⟨k, some (newTurn s k)⟩ } := by
  unfold replayTurnGrant
  rw [hturn, hfind]

theorem replayTurnGrant_noneFound {s : State} (hturn : s.replay.turn = none)
    (hfind : (stationsAfter s.replay.position).find? (eligible s) = none) : replayTurnGrant s = s := by
  unfold replayTurnGrant
  rw [hturn, hfind]

/-- Settles O40: the search runs over the stations in rising place after the position, so it finds the
eligible station before which there is none. -/
theorem replayTurnGranted : Obligations.ReplayTurnGranted := by
  intro s k hp hturn isEligible place
  refine ⟨fun hk hfirst => ?_, fun hnone => ?_⟩
  · have hbefore : ∀ j, cyclicPlace s.replay.position j < cyclicPlace s.replay.position k →
        eligible s j = false := fun j hj =>
      Bool.eq_false_iff.mpr fun h => hfirst j hj ((eligible_iff s j).mp h)
    rw [exec_replayTurnGrant hp, replayTurnGrant_found hturn
      (find_of_rising (cyclicPlace s.replay.position) ((eligible_iff s k).mpr hk) hbefore _
        (stationsAfter_rises _) (stationsAfter_complete _ k))]
    rfl
  · rw [exec_replayTurnGrant hp, replayTurnGrant_noneFound hturn
      (List.find?_eq_none.mpr fun j _ h => hnone j ((eligible_iff s j).mp h))]

/-! ### A feed that changes is reported (R72, R163) -/

theorem place_getLsbD_below {n pos i : Nat} (h : i < pos) : (place n pos).getLsbD i = false := by
  simp [place, h]

/-- The feed field of a station status record (Table 12-8). -/
theorem stationStatusLower_feed (st : Station) (brk : Monitor) :
    fieldOf (stationStatusLower st brk)[0] 0 4 = feedCode st.feed := by
  have hlow : (stationStatusLower st brk)[0].extractLsb' 0 4 = BitVec.ofNat 4 (feedCode st.feed) := by
    apply BitVec.eq_of_getLsbD_eq
    intro i hi
    have habove : ∀ n pos, 4 ≤ pos → (place n pos).getLsbD i = false := fun _ _ hpos =>
      place_getLsbD_below (by omega)
    have hcode : (place (feedCode st.feed) 0).getLsbD i = (BitVec.ofNat 4 (feedCode st.feed)).getLsbD i := by
      simp [place, BitVec.getLsbD_ofNat, -BitVec.getLsbD_eq_getElem, hi, show i < 32 by omega]
    rw [BitVec.getLsbD_extractLsb', decide_eq_true hi, Bool.true_and, Nat.zero_add, ← hcode]
    show (_ ||| _ ||| _ ||| _ ||| _ ||| _ : Word).getLsbD i = _
    simp only [BitVec.getLsbD_or, habove _ 4 (by decide), habove _ 8 (by decide), habove _ 12 (by decide),
      habove _ 16 (by decide), habove _ 24 (by decide), Bool.or_false]
  unfold fieldOf
  rw [hlow]
  cases st.feed <;> rfl

/-- A change of a station's feed state marks its record (R163). -/
theorem recordChanged_feed {s t : State} {k : StationId}
    (h : feedCode s.stations[k].feed ≠ feedCode t.stations[k].feed) :
    recordChanged s t (.station k) = true := by
  unfold recordChanged
  rw [Bool.or_eq_true, bne_iff_ne]
  refine .inl fun hsame => h ?_
  have hfield := congrArg (fun r : Record => fieldOf r[0] 0 4) hsame
  simpa only [recordLower, stationStatusLower_feed] using hfield

theorem get_set_feed {v : Vector Station 6} {k : StationId} {st : Station} {f : Feed}
    (h : st.feed = f) : (v.set k st)[k].feed = f := by
  rw [get_set_self, h]

/-- The writer once an error has been logged (R169). -/
def Writer.logged (w : Writer) (log : Option LogEntry) : Writer :=
  { w with marks := w.marks.set .errorLog true, owed := w.owed.logged log }

/-- The writer with the station event bit of station k owed (R72). -/
def Writer.eventOwed (w : Writer) (k : StationId) : Writer :=
  { w with owed := w.owed.plus (.station k) (eventBit k) }

/-- An outcome that owes the event bit for a station whose feed has changed. -/
theorem reports_feedMoved {s v w : State} {k : StationId} {a b : Feed}
    (hframe : w = { v with writer := w.writer }) (hw : w.writer = s.writer.eventOwed k)
    (ha : s.stations[k].feed = a) (hb : w.stations[k].feed = b) (hmoved : feedCode a ≠ feedCode b) :
    Reports s v (s.writer.owed.plus (.station k) (eventBit k)) [.station k] (report s w) := by
  refine reports_of hframe (by rw [hw]; rfl) (by rw [hw]; rfl) (by rw [hw]; rfl) (by rw [hw]; rfl)
    (fun r hr => by rw [hw]; exact hr) fun r hr => .inr ?_
  rw [List.mem_singleton.mp hr]
  exact recordChanged_feed (by rw [ha, hb]; exact hmoved)

/-- An outcome that logs an error and changes nothing else that is owed. -/
theorem reports_logged {s v w : State} (hframe : w = { v with writer := w.writer })
    (hw : w.writer = s.writer.logged s.log) :
    Reports s v (s.writer.owed.logged s.log) [.errorLog] (report s w) := by
  refine reports_of hframe (by rw [hw]; rfl) (by rw [hw]; rfl) (by rw [hw]; rfl) (by rw [hw]; rfl)
    (fun r hr => by rw [hw]; exact Marks.get_set_kept _ _ _ hr) fun r hr => .inl ?_
  rw [List.mem_singleton.mp hr, hw]
  exact Marks.get_set_self s.writer.marks .errorLog true

/-- An outcome that logs an error and owes the event bit for a station whose feed has changed. -/
theorem reports_loggedFeedMoved {s v w : State} {k : StationId} {a b : Feed}
    (hframe : w = { v with writer := w.writer })
    (hw : w.writer = (s.writer.logged s.log).eventOwed k)
    (ha : s.stations[k].feed = a) (hb : w.stations[k].feed = b) (hmoved : feedCode a ≠ feedCode b) :
    Reports s v ((s.writer.owed.logged s.log).plus (.station k) (eventBit k)) [.errorLog, .station k]
      (report s w) := by
  refine reports_of hframe (by rw [hw]; rfl) (by rw [hw]; rfl) (by rw [hw]; rfl) (by rw [hw]; rfl)
    (fun r hr => by rw [hw]; exact Marks.get_set_kept _ _ _ hr) fun r hr => ?_
  rcases List.mem_cons.mp hr with rfl | hr
  · exact .inl (by rw [hw]; exact Marks.get_set_self s.writer.marks .errorLog true)
  · rw [List.mem_singleton.mp hr]
    exact .inr (recordChanged_feed (by rw [ha, hb]; exact hmoved))

/-! ### A feed that is left with no turn in flight -/

theorem overtakenTurn_none {s : State} {k : StationId} (hturn : s.replay.turn = none) :
    s.overtakenTurn k = none := by
  unfold State.overtakenTurn
  rw [hturn]
  rfl

/-- A DETACHED or CATCHUP feed is lost, with no turn to overtake (R80, R81, R84). -/
theorem loseFeed_noTurn {s : State} {k : StationId} (r : LossReason) (hturn : s.replay.turn = none)
    (h : s.stations[k].feed = .catchup ∨ s.stations[k].feed = .detached) :
    s.loseFeed k r = { s with
      stations := s.stations.set k { s.stations[k] with feed := .lost r }
      gate := s.gate.told k { s.stations[k] with feed := .lost r }
      writer := s.writer.eventOwed k } := by
  rcases h with h | h
  · rw [loseFeed_catchup r h, overtakenTurn_none hturn, ← hturn]
    rfl
  · rw [loseFeed_detached r h]
    rfl

/-- A station taken out of the live work, with no turn to overtake (R82). -/
theorem takenOut_noTurn {s : State} {k : StationId} (hturn : s.replay.turn = none) (f : Station)
    (l : Link) : s.takenOut k f l = { s.moved k f l with writer := s.writer.eventOwed k } := by
  have hreplay : (if s.stations[k].feed = .catchup then { s.replay with turn := s.overtakenTurn k }
      else s.replay) = s.replay := by
    have hnone : { s.replay with turn := s.overtakenTurn k } = s.replay := by
      rw [overtakenTurn_none hturn, ← hturn]
    rw [hnone, ite_self]
  unfold State.takenOut
  rw [hreplay]
  rfl

/-- A travel fault of a CATCHUP station, by what its drive was, with no turn to overtake (R82). -/
theorem travelFault_catchup {s : State} {k : StationId} (hturn : s.replay.turn = none)
    (hf : s.stations[k].feed = .catchup) :
    (s.stations[k].drive = .running → s.travelFault k =
      s.travelled k (.fault .travel) s.stations[k].done (s.links[k].rewind.placeHalt (some 20#8)))
    ∧ (∀ h, s.stations[k].drive = .held h → s.travelFault k =
      s.travelled k (.fault .travel) s.stations[k].done (s.links[k].rewind.placeHalt none))
    ∧ (¬s.stations[k].drive.entersFault → s.travelFault k =
      s.travelled k s.stations[k].drive s.stations[k].send s.links[k]) := by
  have hout : ∀ d q l, s.takenOut k (s.stations[k].out d q) l = s.travelled k d q l := fun d q l => by
    rw [takenOut_noTurn hturn]
    unfold Station.out
    rw [if_pos (.inr hf)]
    rfl
  exact ⟨fun hd => (faultOut_running hd .travel).trans (hout ..),
    fun h hd => (faultOut_held hd .travel).trans (hout ..),
    fun hd => (faultOut_other hd (.inr hf) .travel).trans (hout ..)⟩

theorem not_entersFault {d : Drive} (h : d = .stopped ∨ ∃ c, d = .fault c) : ¬d.entersFault := by
  rcases h with rfl | ⟨c, rfl⟩
  · exact fun h => h.elim nofun nofun
  · exact fun h => h.elim nofun nofun

/-! ### The end of a turn -/

/-- The port freed and no turn in flight: a turn's end (R79 to R85). -/
def State.turnEnded (s : State) : State := { s.freed with replay := { s.replay with turn := none } }

theorem report_turnEnded (s : State) : report s s.turnEnded = s.turnEnded :=
  report_of_shown rfl rfl rfl rfl rfl rfl rfl rfl

/-- A FAULT of a turn's transaction, logged as the turn ends (R80, R84, R169). -/
theorem turnEnded_logError (s : State) (write : Bool) (addr data : Word) (k : StationId) :
    s.turnEnded.logError .memFault .replay write addr data (some k) = { s.turnEnded with
      log := loggedWith s.log ⟨.memFault, .replay, write, addr, data, some k, 0#8⟩
      writer := s.writer.logged s.log } :=
  logError_eq ..

/-- A FAULT of a turn's transaction loses a DETACHED or CATCHUP feed (R80, R84). -/
theorem reports_turnFault {s : State} {k : StationId} (write : Bool) (addr data : Word)
    (h : s.stations[k].feed = .catchup ∨ s.stations[k].feed = .detached) :
    Reports s { s.turnEnded with
        stations := s.stations.set k { s.stations[k] with feed := .lost .memory }
        gate := s.gate.told k { s.stations[k] with feed := .lost .memory }
        log := loggedWith s.log ⟨.memFault, .replay, write, addr, data, some k, 0#8⟩ }
      ((s.writer.owed.logged s.log).plus (.station k) (eventBit k)) [.errorLog, .station k]
      (report s ((s.turnEnded.logError .memFault .replay write addr data (some k)).loseFeed k .memory)) := by
  rw [turnEnded_logError, loseFeed_noTurn (s := { s.turnEnded with log := _, writer := _ }) .memory rfl h]
  rcases h with h | h
  · exact reports_loggedFeedMoved (b := .lost .memory) rfl rfl h (get_set_feed rfl) (by decide)
  · exact reports_loggedFeedMoved (b := .lost .memory) rfl rfl h (get_set_feed rfl) (by decide)

/-! ### The answer to a turn's read (R79 to R83) -/

section
variable {s : State} {t : ReplayTurn} {m : MemTxn} (hport : s.port.inFlight = some ⟨.replay, m⟩)
  (hturn : s.replay.turn = some t) (hcopy : t.copy = none)
include hport hturn hcopy

/-- An overtaken turn ends without effect (R79). -/
theorem replayReadAnswer_marked (hm : t.marked = true) (ans : ReadAnswer 8) :
    replayReadAnswer ans s = s.turnEnded := by
  unfold replayReadAnswer
  rw [inFlightFor_eq hport, hturn]
  simp only [hcopy, hm, if_true]
  rfl

theorem replayReadAnswer_outcome (hm : t.marked = false) (ans : ReadAnswer 8) :
    replayReadAnswer ans s = turnOutcome t ans s := by
  unfold replayReadAnswer
  rw [inFlightFor_eq hport, hturn]
  simp [hcopy, hm]

end

theorem recMatches_iff (r : Record) (q : Seq) :
    recMatches r q = true ↔ checkCorrect r = true ∧ recSeq r = q := by
  unfold recMatches
  rw [Bool.and_eq_true, beq_iff_eq]

theorem turnOutcome_fault (t : ReplayTurn) (s : State) : turnOutcome t .fault s =
    (s.turnEnded.logError .memFault .replay false (turnReadAddr s.job t.seq) 0#32
      (some t.station)).loseFeed t.station .memory := rfl

theorem turnOutcome_mismatch {t : ReplayTurn} {s : State} {rec : Vector Word 8}
    (h : ¬(checkCorrect rec = true ∧ recSeq rec = t.seq)) :
    turnOutcome t (.ok rec) s = s.turnEnded.loseFeed t.station .check :=
  if_neg fun hm => h ((recMatches_iff rec t.seq).mp hm)

section
variable {t : ReplayTurn} {s : State} {rec : Vector Word 8} (hc : checkCorrect rec = true)
  (hq : recSeq rec = t.seq)
include hc hq

theorem turnOutcome_copy {copy : Record} (h : transform s.shadows.stations[t.station] rec = some copy) :
    turnOutcome t (.ok rec) s = turnCopy t copy s := by
  unfold turnOutcome
  simp only [(recMatches_iff rec t.seq).mpr ⟨hc, hq⟩, h, if_true]

theorem turnOutcome_travel (h : transform s.shadows.stations[t.station] rec = none) :
    turnOutcome t (.ok rec) s = s.turnEnded.travelFault t.station := by
  unfold turnOutcome
  simp only [(recMatches_iff rec t.seq).mpr ⟨hc, hq⟩, h, if_true]
  rfl

end

/-- A copy's post advances and its ring write is on the port (R83, R177). -/
theorem turnCopy_eq (t : ReplayTurn) (copy : Record) (s : State) : turnCopy t copy s =
    let up : Station := { s.stations[t.station] with post := t.seq + 1#16 }
    { s.writing .replay .replay t.slotAddr copy with
      stations := s.stations.set t.station up
      links := s.links.set t.station (s.links[t.station].drained up)
      replay := { s.replay with turn := some { t with copy := some copy } } } := by
  unfold turnCopy
  rw [weighDrain_eq]
  simp only [State.setStation, State.setTurn, State.setPort, get_set_self]
  rfl

/-- Settles O41: the outcomes of a turn's read in their order, each by its own equation. -/
theorem replayReadAnswered : Obligations.ReplayReadAnswered := by
  intro s t m ans rec hp hport hturn hcopy k st ended lost gone
  have hgives : ∀ a, AnswerGives .replayReadAnswer a s (report s (replayReadAnswer a s)) :=
    fun _ => answerGives_of (fun _ => rfl) hp
  refine ⟨fun hm => ?_, fun hm hfeed => ?_⟩
  · have hans := hgives ans
    rw [replayReadAnswer_marked hport hturn hcopy hm, report_turnEnded] at hans
    exact hans
  have hout := fun a => replayReadAnswer_outcome hport hturn hcopy hm a
  have hends : ∀ {a v w owed marked}, turnOutcome t a s = w → Reports s v owed marked (report s w) →
      AnswerEndsIn .replayReadAnswer a s v owed marked := fun {a} _ _ _ _ hw hr =>
    ⟨_, hgives a, by rw [hout a, hw]; exact hr⟩
  have htravels : checkCorrect rec = true → recSeq rec = t.seq →
      transform s.shadows.stations[k] rec = none → ∀ {d q l}, s.turnEnded.travelFault k =
        s.turnEnded.travelled k d q l → AnswerEndsIn .replayReadAnswer (.ok rec) s
          (s.turnEnded.moved k { st with feed := .detached, drive := d, send := q } l)
          (s.writer.owed.plus (.station k) (eventBit k)) [.station k] := fun hc hq htr _ _ _ htf =>
    hends ((turnOutcome_travel hc hq htr).trans htf)
      (reports_feedMoved (b := .detached) rfl rfl hfeed (get_set_feed rfl) (by decide))
  obtain ⟨hrun, hheld, hother⟩ := travelFault_catchup (s := s.turnEnded) (k := k) rfl hfeed
  refine ⟨hends (turnOutcome_fault t s) (reports_turnFault false _ _ (.inl hfeed)), fun hbad => ?_,
    fun hc hq => ⟨fun copy htr => ?_, fun htr hd => htravels hc hq htr (hother ?_),
      fun htr => ⟨fun h hd => htravels hc hq htr (hheld h hd),
        fun hd => htravels hc hq htr (hrun hd)⟩⟩⟩
  · refine hends ((turnOutcome_mismatch hbad).trans
      (loseFeed_noTurn (s := s.turnEnded) .check rfl (.inl hfeed))) ?_
    exact reports_feedMoved (b := .lost .check) rfl rfl hfeed (get_set_feed rfl) (by decide)
  · exact hends ((turnOutcome_copy hc hq htr).trans (turnCopy_eq t copy s))
      (reports_of rfl rfl rfl rfl rfl (fun _ hr => hr) nofun)
  · exact not_entersFault hd

/-! ### The answer to a turn's ring write (R83 to R85) -/

section
variable {s : State} {t : ReplayTurn} {m : MemTxn} {copy : Record}
  (hport : s.port.inFlight = some ⟨.replay, m⟩) (hturn : s.replay.turn = some t)
  (hcopy : t.copy = some copy)
include hport hturn hcopy

theorem replayWriteAnswer_ok : replayWriteAnswer .ok s = turnWritten t copy s.turnEnded := by
  unfold replayWriteAnswer
  rw [inFlightFor_eq hport, hturn]
  simp only [hcopy]
  rfl

theorem replayWriteAnswer_fault : replayWriteAnswer .fault s = turnWriteFault t copy s.turnEnded := by
  unfold replayWriteAnswer
  rw [inFlightFor_eq hport, hturn]
  simp only [hcopy]
  rfl

end

/-- A station with a copy counted that has CLAMPED or FEEDCLAMP set (R18). -/
def Station.counted (st : Station) (copy : Record) : Station :=
  { st with counters := { st.counters with
      clamps := if recClamped copy = true ∨ recFeedClamp copy = true then satInc st.counters.clamps
        else st.counters.clamps } }

theorem countClamp_eq (s : State) (k : StationId) (copy : Record) :
    s.countClamp k copy = { s with stations := s.stations.set k (s.stations[k].counted copy) } := by
  have hclamped : copyClamped copy = true ↔ recClamped copy = true ∨ recFeedClamp copy = true :=
    Bool.or_eq_true_iff
  unfold State.countClamp Station.counted
  by_cases h : copyClamped copy = true
  · rw [if_pos h, if_pos (hclamped.mp h)]
    rfl
  · rw [if_neg h, if_neg fun hc => h (hclamped.mpr hc)]
    show s = { s with stations := s.stations.set k s.stations[k] }
    rw [vector_set_get]

/-- The join of a station makes it LIVE and owes its event bit (R85). -/
theorem joinLive_joins {s : State} {k : StationId} (h : s.stations[k].feed = .catchup
      ∧ s.stations[k].post = s.job.frontier ∧ s.job.inFlight = false) :
    s.joinLive k = { s with
      stations := s.stations.set k { s.stations[k] with feed := .live }
      writer := s.writer.eventOwed k } := if_pos h

theorem joinLive_waits {s : State} {k : StationId} (h : ¬(s.stations[k].feed = .catchup
      ∧ s.stations[k].post = s.job.frontier ∧ s.job.inFlight = false)) : s.joinLive k = s := if_neg h

section
variable {t : ReplayTurn} {s : State} (copy : Record) (hon : s.stations[t.station].feed ≠ .off)
include hon

theorem turnWritten_joins (h : s.stations[t.station].feed = .catchup
      ∧ s.stations[t.station].post = s.job.frontier ∧ s.job.inFlight = false) :
    turnWritten t copy s = { s with
      stations := s.stations.set t.station { s.stations[t.station].counted copy with feed := .live }
      writer := s.writer.eventOwed t.station } := by
  unfold turnWritten
  rw [if_neg hon, countClamp_eq, joinLive_joins (by simp only [get_set_self]; exact h)]
  simp only [get_set_self, vector_set_set]

theorem turnWritten_waits (h : ¬(s.stations[t.station].feed = .catchup
      ∧ s.stations[t.station].post = s.job.frontier ∧ s.job.inFlight = false)) :
    turnWritten t copy s =
      { s with stations := s.stations.set t.station (s.stations[t.station].counted copy) } := by
  unfold turnWritten
  rw [if_neg hon, countClamp_eq, joinLive_waits (by simp only [get_set_self]; exact h)]

end

/-- Settles O42: the two answers, by the station's feed and by whether it joins. -/
theorem replayWriteAnswered : Obligations.ReplayWriteAnswered := by
  intro s t m copy hp hport hturn hcopy k st ended counted joins lost logged
  have hok : AnswerGives .replayWriteAnswer .ok s (report s (turnWritten t copy s.turnEnded)) := by
    rw [← replayWriteAnswer_ok hport hturn hcopy]
    exact answerGives_of (fun _ => rfl) hp
  have hfault : AnswerGives .replayWriteAnswer .fault s
      (report s (turnWriteFault t copy s.turnEnded)) := by
    rw [← replayWriteAnswer_fault hport hturn hcopy]
    exact answerGives_of (fun _ => rfl) hp
  refine ⟨fun hoff => ?_, fun hon hjoin => ⟨_, hok, ?_⟩, fun hon hwait => ⟨_, hok, ?_⟩,
    fun hfed => ⟨_, hfault, reports_turnFault true _ _ hfed⟩, fun hc hd => ⟨_, hfault, ?_⟩⟩
  · rw [turnWritten, if_pos (show s.turnEnded.stations[t.station].feed = .off from hoff),
      report_turnEnded] at hok
    exact hok
  · rw [turnWritten_joins (s := s.turnEnded) copy hon hjoin]
    obtain ⟨hcatchup, -, -⟩ := hjoin
    exact reports_feedMoved (b := .live) rfl rfl hcatchup (get_set_feed rfl) (by decide)
  · rw [turnWritten_waits (s := s.turnEnded) copy hon hwait]
    exact reports_of rfl rfl rfl rfl rfl (fun _ hr => hr) nofun
  · unfold turnWriteFault
    rw [turnEnded_logError, loseFeed_other (s := { s.turnEnded with log := _, writer := _ }) .memory hd hc]
    exact reports_logged rfl rfl

end Sys2Proof.Machine
end

section
/-! The gate's member set (R89): the operations on one station that keep it the stations whose feed is LIVE
or CATCHUP and whose drive is not in FAULT, because they leave the station's membership as it was or tell
the gate of it. -/

namespace Sys2Proof.Machine

variable {s : State}

/-! ### One station -/

/-- A station changes, and is a member exactly when it was one. -/
theorem GateHoldsMembers.setStation (h : GateHoldsMembers s) {k : StationId} {x : Station}
    (hx : isMember x = isMember s.stations[k]) : GateHoldsMembers (s.setStation k x) := by
  intro j
  rw [setStation_stations_get]
  split
  · next hj => rw [hx, hj]; exact h k
  · exact h j

/-- A station changes, and tells the gate. -/
theorem GateHoldsMembers.setStation_tellGate (h : GateHoldsMembers s) (k : StationId) (x : Station) :
    GateHoldsMembers ((s.setStation k x).tellGate k) := by
  rw [tellGate_eq, setStation_get]
  exact told_holdsMembers h rfl rfl

theorem GateHoldsMembers.setCounters (h : GateHoldsMembers s) {k : StationId} {c : Counters} :
    GateHoldsMembers (s.setCounters k c) := h.setStation rfl

/-- A drive that is not in FAULT takes another state that is not FAULT. -/
theorem isMember_setDrive {st : Station} {d : Drive} (hs : ∀ c, st.drive ≠ .fault c)
    (hd : ∀ c, d ≠ .fault c) : isMember { st with drive := d } = isMember st := by
  unfold isMember
  cases st.feed <;> cases hc : st.drive <;> cases d <;> simp_all

/-! ### The shared operations -/

theorem GateHoldsMembers.mark (h : GateHoldsMembers s) {r : RecordId} : GateHoldsMembers (s.mark r) := h

theorem GateHoldsMembers.owe (h : GateHoldsMembers s) {r : RecordId} {b : Word} :
    GateHoldsMembers (s.owe r b) := h

theorem GateHoldsMembers.oweEvent (h : GateHoldsMembers s) {k : StationId} :
    GateHoldsMembers (s.oweEvent k) := h

theorem GateHoldsMembers.portAnswered (h : GateHoldsMembers s) : GateHoldsMembers s.portAnswered := h

theorem GateHoldsMembers.setPort (h : GateHoldsMembers s) {p : Port} : GateHoldsMembers (s.setPort p) := h

theorem GateHoldsMembers.setTurn (h : GateHoldsMembers s) {t : Option ReplayTurn} :
    GateHoldsMembers (s.setTurn t) := h

theorem GateHoldsMembers.setLink (h : GateHoldsMembers s) {k : StationId} {l : Link} :
    GateHoldsMembers (s.setLink k l) := h

theorem GateHoldsMembers.setBreak (h : GateHoldsMembers s) {k : StationId} {m : Monitor} :
    GateHoldsMembers (s.setBreak k m) := h

theorem GateHoldsMembers.setJob (h : GateHoldsMembers s) {j : Job} : GateHoldsMembers (s.setJob j) := h

theorem GateHoldsMembers.answer (h : GateHoldsMembers s) {a : ProcAnswer} :
    GateHoldsMembers (s.answer a) := h

theorem GateHoldsMembers.startWork (h : GateHoldsMembers s) {p : ProcTxn} {w : TransitWork} :
    GateHoldsMembers (s.startWork p w) := h

theorem GateHoldsMembers.reach (h : GateHoldsMembers s) {n : Nat} : GateHoldsMembers (s.reach n) := h

theorem GateHoldsMembers.logError (h : GateHoldsMembers s) {e : ErrorKind} {o : Origin} {w : Bool}
    {a d : Word} {st : Option StationId} : GateHoldsMembers (s.logError e o w a d st) := by
  rw [logError_eq]
  exact h

theorem GateHoldsMembers.refuse (h : GateHoldsMembers s) {e : ErrorKind} {p : ProcTxn} :
    GateHoldsMembers (s.refuse e p) := h.logError.answer

theorem GateHoldsMembers.completeStation (h : GateHoldsMembers s) {k : StationId} {c : BitVec 4}
    {r : Result} : GateHoldsMembers (s.completeStation k c r) :=
  have hx : GateHoldsMembers (s.setStation k
      { s.stations[k] with lastCommand := c, lastResult := r, progress := .idle }) := h.setStation rfl
  hx.mark.owe

theorem GateHoldsMembers.completeJob (h : GateHoldsMembers s) {c : BitVec 4} {r : Result} :
    GateHoldsMembers (s.completeJob c r) := h

theorem GateHoldsMembers.weighDrain (h : GateHoldsMembers s) {k : StationId} :
    GateHoldsMembers (s.weighDrain k) := by
  rw [weighDrain_eq]
  exact h

theorem GateHoldsMembers.enterDrive (h : GateHoldsMembers s) {k : StationId} {d : Drive}
    {halt : Option Byte} : GateHoldsMembers (s.enterDrive k d halt) := by
  rw [enterDrive_eq]
  exact told_holdsMembers h rfl rfl

theorem GateHoldsMembers.requestHeld (h : GateHoldsMembers s) {k : StationId} {r : HoldReason} :
    GateHoldsMembers (s.requestHeld k r) := by
  unfold State.requestHeld
  split
  · dsimp only
    split
    · exact h.enterDrive.oweEvent
    · exact h.enterDrive
  all_goals exact h

theorem GateHoldsMembers.requestFault (h : GateHoldsMembers s) {k : StationId} {c : FaultCode} :
    GateHoldsMembers (s.requestFault k c) := by
  unfold State.requestFault
  split
  · exact h.enterDrive.oweEvent
  · exact h.enterDrive.oweEvent
  all_goals exact h

theorem GateHoldsMembers.overtake (h : GateHoldsMembers s) {k : StationId} :
    GateHoldsMembers (s.overtake k) := by
  rw [overtake_eq]
  exact h

theorem GateHoldsMembers.loseFeed (h : GateHoldsMembers s) {k : StationId} {r : LossReason} :
    GateHoldsMembers (s.loseFeed k r) := by
  by_cases hd : s.stations[k].feed = .detached
  · rw [loseFeed_detached r hd]
    exact told_holdsMembers h rfl rfl
  · by_cases hc : s.stations[k].feed = .catchup
    · rw [loseFeed_catchup r hc]
      exact told_holdsMembers h rfl rfl
    · rwa [loseFeed_other r hd hc]

theorem GateHoldsMembers.detachFeed (h : GateHoldsMembers s) {k : StationId} :
    GateHoldsMembers (s.detachFeed k) := by
  by_cases hl : s.stations[k].feed = .live
  · rw [detachFeed_live hl]
    exact told_holdsMembers h rfl rfl
  · by_cases hc : s.stations[k].feed = .catchup
    · rw [detachFeed_catchup hc]
      exact told_holdsMembers h rfl rfl
    · rwa [detachFeed_other hl hc]

/-- A CATCHUP station that joins stays a member, so the gate need not be told (R85, R89). -/
theorem GateHoldsMembers.joinLive (h : GateHoldsMembers s) {k : StationId} :
    GateHoldsMembers (s.joinLive k) := by
  unfold State.joinLive
  split
  · next hc =>
    obtain ⟨hfeed, -, -⟩ := hc
    refine (h.setStation ?_).oweEvent
    unfold isMember
    rw [hfeed]
    cases s.stations[k].drive <;> rfl
  · exact h

theorem GateHoldsMembers.countClamp (h : GateHoldsMembers s) {k : StationId} {c : Record} :
    GateHoldsMembers (s.countClamp k c) := by
  unfold State.countClamp
  dsimp only
  split
  · exact h.setCounters
  · exact h

theorem GateHoldsMembers.discardQueue (h : GateHoldsMembers s) {k : StationId} :
    GateHoldsMembers (s.discardQueue k) := h.setCounters.setLink

/-- A completion changes the entries alone (R92). -/
theorem completed_members (g : Gate) (k : StationId) (q : Seq) : (g.completed k q).members = g.members := by
  unfold Gate.completed
  split <;> rfl

theorem GateHoldsMembers.setGate (h : GateHoldsMembers s) {g : Gate} (hg : g.members = s.gate.members) :
    GateHoldsMembers (s.setGate g) := fun k => by
  show inSet k g.members = _
  rw [hg]
  exact h k

/-! ### Break and stop inputs -/

theorem GateHoldsMembers.breakEdge (h : GateHoldsMembers s) {k : StationId} :
    GateHoldsMembers (s.breakEdge k) :=
  h.setCounters.mark.oweEvent.requestHeld.weighDrain

theorem GateHoldsMembers.breakQualifies (h : GateHoldsMembers s) {k : StationId} :
    GateHoldsMembers (s.breakQualifies k) := by
  unfold State.breakQualifies
  dsimp only
  split
  · exact h.setBreak.mark.breakEdge
  · exact h

theorem GateHoldsMembers.breakDue (h : GateHoldsMembers s) {k : StationId} :
    GateHoldsMembers (s.breakDue k) := by
  unfold State.breakDue
  split
  · split
    · exact h.breakQualifies
    · exact h
  · exact h

theorem breakLineChange_members (k : StationId) (level : Bool) (h : GateHoldsMembers s) :
    GateHoldsMembers (breakLineChange k level s) := h.breakDue.setBreak.breakDue

theorem breakQualifiedChange_members (k : StationId) (h : GateHoldsMembers s) :
    GateHoldsMembers (breakQualifiedChange k s) := by
  unfold breakQualifiedChange
  split
  · exact h.reach.breakQualifies
  · exact h

theorem GateHoldsMembers.stopChanges (h : GateHoldsMembers s) : GateHoldsMembers s.stopChanges := by
  unfold State.stopChanges
  split
  · exact h
  · exact List.foldlRecOn (motive := GateHoldsMembers) _ _ h fun _ ht _ _ => ht.requestHeld.weighDrain

theorem stopLineChange_members (level : Bool) (h : GateHoldsMembers s) :
    GateHoldsMembers (stopLineChange level s) := by
  have hdue : GateHoldsMembers s.stopDue := by
    unfold State.stopDue
    split
    · split
      · exact h.stopChanges
      · exact h
    · exact h
  exact hdue

theorem stopAssertion_members (h : GateHoldsMembers s) : GateHoldsMembers (stopAssertion s) := by
  unfold stopAssertion
  split
  · exact h.reach.stopChanges
  all_goals exact h

theorem stopNegation_members (h : GateHoldsMembers s) : GateHoldsMembers (stopNegation s) := by
  unfold stopNegation
  split
  · exact h.reach.stopChanges
  all_goals exact h

end Sys2Proof.Machine
end

section
/-! The commands of the links, the control blocks, the journal and the replay engine keep the gate's member
set right (R89). -/

namespace Sys2Proof.Machine

variable {s : State}

/-! ### The links -/

theorem characterComplete_members (k : StationId) (c : SampledChar) (h : GateHoldsMembers s) :
    GateHoldsMembers (characterComplete k c s) := by
  unfold characterComplete
  dsimp only
  split
  · exact h
  · split
    · exact h.setLink
    · split
      · exact h.setLink
      · exact h.setLink.setCounters

theorem frameEnd_members (k : StationId) (h : GateHoldsMembers s) : GateHoldsMembers (frameEnd k s) := by
  unfold frameEnd
  dsimp only
  split
  · exact h
  · split
    · split
      · exact h.reach.setLink
      · exact h.reach.setLink.setCounters
    · exact h.reach.setLink
    · exact h.reach.setLink

/-- A frame taken is stale, or does what a frame of its kind does. -/
theorem takeFrame_members {k : StationId} {f : State → State}
    (hf : ∀ {t : State}, GateHoldsMembers t → GateHoldsMembers (f t)) (h : GateHoldsMembers s) :
    GateHoldsMembers (s.takeFrame k f) := by
  have hpop : GateHoldsMembers (s.popFrame k) := h.setLink
  unfold State.takeFrame
  split
  · exact hpop.setCounters
  · exact hf hpop

theorem accTaken_members (k : StationId) (q : Seq) (h : GateHoldsMembers s) :
    GateHoldsMembers (accTaken k q s) := by
  unfold accTaken
  split
  · have hsent : GateHoldsMembers (s.setStation k
        { s.stations[k] with send := s.stations[k].send + 1#16 }) := h.setStation rfl
    exact hsent.setLink.weighDrain
  · exact h.setCounters

theorem doneTaken_members (k : StationId) (q : Seq) (h : GateHoldsMembers s) :
    GateHoldsMembers (doneTaken k q s) := by
  unfold doneTaken
  dsimp only
  split
  · have hdone : GateHoldsMembers (s.setStation k (doneStation s.stations[k])) := h.setStation rfl
    exact (hdone.setLink.setGate (completed_members ..)).weighDrain
  · exact h.setCounters

theorem retryDecision_members (k : StationId) (h : GateHoldsMembers s) :
    GateHoldsMembers (retryDecision k s) := by
  unfold retryDecision
  dsimp only
  split
  · exact h.setLink
  · exact h.setLink.requestFault.weighDrain

theorem nakCheckTaken_members (k : StationId) (q : Seq) (h : GateHoldsMembers s) :
    GateHoldsMembers (nakCheckTaken k q s) := by
  unfold nakCheckTaken
  split
  · exact retryDecision_members k h
  · exact h.setCounters

theorem nakFullTaken_members (k : StationId) (q : Seq) (h : GateHoldsMembers s) :
    GateHoldsMembers (nakFullTaken k q s) := by
  unfold nakFullTaken
  split
  · exact h.setLink
  · exact h.setCounters

theorem nakTravelTaken_members (k : StationId) (q : Seq) (h : GateHoldsMembers s) :
    GateHoldsMembers (nakTravelTaken k q s) := by
  unfold nakTravelTaken
  split
  · exact h.requestFault.weighDrain
  · exact h.setCounters

theorem accFrame_members (k : StationId) (h : GateHoldsMembers s) : GateHoldsMembers (accFrame k s) := by
  unfold accFrame
  split
  · exact takeFrame_members (accTaken_members k _) h
  all_goals exact h

theorem doneFrame_members (k : StationId) (h : GateHoldsMembers s) : GateHoldsMembers (doneFrame k s) := by
  unfold doneFrame
  split
  · exact takeFrame_members (doneTaken_members k _) h
  all_goals exact h

theorem nakCheck_members (k : StationId) (h : GateHoldsMembers s) : GateHoldsMembers (nakCheck k s) := by
  unfold nakCheck
  split
  · split
    · exact takeFrame_members (nakCheckTaken_members k _) h
    · exact h
  all_goals exact h

theorem nakFull_members (k : StationId) (h : GateHoldsMembers s) : GateHoldsMembers (nakFull k s) := by
  unfold nakFull
  split
  · split
    · exact takeFrame_members (nakFullTaken_members k _) h
    · exact h
  all_goals exact h

theorem nakTravel_members (k : StationId) (h : GateHoldsMembers s) : GateHoldsMembers (nakTravel k s) := by
  unfold nakTravel
  split
  · split
    · exact h
    · exact takeFrame_members (nakTravelTaken_members k _) h
  all_goals exact h

theorem fltFrame_members (k : StationId) (h : GateHoldsMembers s) : GateHoldsMembers (fltFrame k s) := by
  unfold fltFrame
  split
  · exact takeFrame_members (fun ht => ht.requestFault.weighDrain) h
  all_goals exact h

theorem ackTimerExpiry_members (k : StationId) (h : GateHoldsMembers s) :
    GateHoldsMembers (ackTimerExpiry k s) := by
  unfold ackTimerExpiry
  split
  · exact retryDecision_members k h.reach
  · exact h

theorem GateHoldsMembers.beginTx (h : GateHoldsMembers s) {k : StationId} {kind : TxKind}
    {bytes : List Byte} : GateHoldsMembers (s.beginTx k kind bytes) := h.reach.setLink

theorem haltBegin_members (k : StationId) (h : GateHoldsMembers s) : GateHoldsMembers (haltBegin k s) := by
  unfold haltBegin
  split
  · exact h.beginTx
  all_goals exact h

theorem goBegin_members (k : StationId) (h : GateHoldsMembers s) : GateHoldsMembers (goBegin k s) := by
  unfold goBegin
  split
  · split
    · exact h.beginTx.setLink
    · exact h
  all_goals exact h

theorem segBegin_members (k : StationId) (h : GateHoldsMembers s) : GateHoldsMembers (segBegin k s) := by
  unfold segBegin
  split
  · split
    · exact h.beginTx
    · exact h
  all_goals exact h

theorem resendBegin_members (k : StationId) (h : GateHoldsMembers s) :
    GateHoldsMembers (resendBegin k s) := by
  unfold resendBegin
  dsimp only
  split
  · split
    · exact h.beginTx.setLink.setCounters
    · exact h
  all_goals exact h

theorem frameEffect_members (k : StationId) (kind : TxKind) (h : GateHoldsMembers s) :
    GateHoldsMembers (frameEffect k kind s) := by
  unfold frameEffect
  dsimp only
  split
  · exact h.setLink
  · exact h
  · split
    · exact h.setLink
    · exact h
  · split
    · exact h.setLink
    · exact h

theorem endResetWork_members (k : StationId) (h : GateHoldsMembers s) :
    GateHoldsMembers (endResetWork k s) := by
  unfold endResetWork
  split
  · exact h.setLink
  · exact h

theorem frameTransmitEnd_members (k : StationId) (h : GateHoldsMembers s) :
    GateHoldsMembers (frameTransmitEnd k s) := by
  unfold frameTransmitEnd
  split
  · exact endResetWork_members k (frameEffect_members k _ h.reach.setLink)
  · exact h

/-! ### Station commands -/

theorem startAttach_members (k : StationId) (w : Word) (h : GateHoldsMembers s) :
    GateHoldsMembers (startAttach k w s) := by
  unfold startAttach
  split
  · exact h.completeStation
  · split
    · exact h.completeStation
    · exact h.setStation rfl

theorem startDetach_members (k : StationId) (h : GateHoldsMembers s) :
    GateHoldsMembers (startDetach k s) := by
  unfold startDetach
  split
  · exact h.detachFeed.completeStation
  · exact h.detachFeed.completeStation
  all_goals exact h.completeStation

theorem startReattach_members (k : StationId) (h : GateHoldsMembers s) :
    GateHoldsMembers (startReattach k s) := by
  unfold startReattach
  split
  · exact (h.setStation_tellGate k _).completeStation
  · exact h.completeStation

theorem startHold_members (k : StationId) (h : GateHoldsMembers s) : GateHoldsMembers (startHold k s) := by
  unfold startHold
  split
  · exact h.requestHeld.weighDrain.completeStation
  all_goals exact h.completeStation

/-- RESUME takes the drive from HELD to RUNNING, neither of which is FAULT (R67, R89). -/
theorem startResume_members (k : StationId) (h : GateHoldsMembers s) :
    GateHoldsMembers (startResume k s) := by
  unfold startResume
  split
  · next hok =>
    obtain ⟨r, hheld⟩ := resumeResult_ok hok
    have hrun : GateHoldsMembers (s.setStation k { s.stations[k] with drive := .running }) :=
      h.setStation (isMember_setDrive (by rw [hheld]; exact nofun) nofun)
    exact hrun.setLink.completeStation
  · exact h.completeStation

theorem startClear_members (k : StationId) (h : GateHoldsMembers s) :
    GateHoldsMembers (startClear k s) := by
  unfold startClear
  split
  · exact h.enterDrive.oweEvent.weighDrain.completeStation
  all_goals exact h.completeStation

/-- A released station leaves the gate (R70, R91). -/
theorem finishRelease_members (k : StationId) (h : GateHoldsMembers s) :
    GateHoldsMembers (finishRelease k s) := by
  rw [released_eq]
  have hleft : GateHoldsMembers (s.released k) := told_holdsMembers h rfl rfl
  exact hleft.mark.owe

theorem startRelease_members (k : StationId) (h : GateHoldsMembers s) :
    GateHoldsMembers (startRelease k s) := by
  have hheld : GateHoldsMembers ((s.requestHeld k .operator).weighDrain k) := h.requestHeld.weighDrain
  unfold startRelease
  dsimp only
  split
  · exact h.completeStation
  · split
    · exact finishRelease_members k hheld
    · exact hheld.setStation rfl

theorem startStationCommand_members (k : StationId) (w : Word) (h : GateHoldsMembers s) :
    GateHoldsMembers (startStationCommand k w s) := by
  unfold startStationCommand
  split
  · exact h
  · exact startAttach_members k w h
  · exact startDetach_members k h
  · exact startReattach_members k h
  · exact startHold_members k h
  · exact startResume_members k h
  · exact startClear_members k h
  · exact startRelease_members k h
  · exact h.completeStation

/-- An attached station tells the gate as its drive enters HELD (R63, R90). -/
theorem attachStation_members (k : StationId) (index : BitVec 5) (q : Seq) (d : Descriptor)
    (h : GateHoldsMembers s) : GateHoldsMembers (attachStation k index q d s) := by
  unfold attachStation
  rw [enterDrive_eq, setStation_get]
  exact told_holdsMembers h (vector_set_set ..) rfl

theorem completeAttach_members (k : StationId) (index : BitVec 5) (q : Seq) (ans : ReadAnswer 4)
    (h : GateHoldsMembers s) : GateHoldsMembers (completeAttach k index q ans s) := by
  have hq : GateHoldsMembers (s.discardQueue k) := h.discardQueue
  unfold completeAttach
  split
  · exact hq.logError.completeStation
  · split
    · exact (attachStation_members k index q _ hq).completeStation
    · exact hq.completeStation

theorem attachComplete_members (ans : ReadAnswer 4) (h : GateHoldsMembers s) :
    GateHoldsMembers (attachComplete ans s) := by
  unfold attachComplete
  split
  · split
    · exact completeAttach_members _ _ _ ans h.portAnswered
    · exact h
    · exact h
  all_goals exact h

theorem releaseComplete_members (k : StationId) (h : GateHoldsMembers s) :
    GateHoldsMembers (releaseComplete k s) := by
  unfold releaseComplete
  split
  · exact finishRelease_members k h
  · exact h

/-! ### The journal -/

theorem joinAll_members (h : GateHoldsMembers s) : GateHoldsMembers (joinAll s) :=
  List.foldlRecOn (motive := GateHoldsMembers) _ _ h fun _ ht _ _ => ht.joinLive

theorem startApply_members (p : ProcTxn) (h : GateHoldsMembers s) :
    GateHoldsMembers (startApply p s) :=
  have hover := (overwrittenFold_moves (s.setJob { s.job with inFlight := true })).gate h
  ((laggingFold_moves _).gate hover).startWork

theorem attemptCommit_members (p : ProcTxn) (h : GateHoldsMembers s) :
    GateHoldsMembers (attemptCommit p s) := by
  unfold attemptCommit
  split
  · exact h.setJob.mark.refuse
  · split
    · exact h
    · exact startApply_members p h

theorem journalWrite_members (t : WriteTxn) (h : GateHoldsMembers s) :
    GateHoldsMembers (journalWrite t s) := by
  unfold journalWrite
  dsimp only
  split
  · exact h.refuse
  · split
    · exact h.refuse
    · split
      · split
        · exact attemptCommit_members _ h.setJob
        · exact h
      · split
        · exact h.refuse
        · exact h.refuse

/-- A SYNC record's insertion leaves the member set (R93). -/
theorem commitEnd_members (h : GateHoldsMembers s) : GateHoldsMembers (commitEnd s) := by
  have hsync : GateHoldsMembers (insertSync s) := by
    unfold insertSync
    split
    · exact h.setGate rfl
    · exact h
  have hend : GateHoldsMembers (oweEnd (insertSync s)) := by
    unfold oweEnd
    split
    · exact hsync.owe
    · exact hsync
  exact (joinAll_members hend.setJob).answer

theorem commitFail_members (addr : Word) (h : GateHoldsMembers s) :
    GateHoldsMembers (commitFail addr s) := (joinAll_members h.logError.setJob).answer

theorem GateHoldsMembers.travelFault (h : GateHoldsMembers s) {k : StationId} :
    GateHoldsMembers (s.travelFault k) := h.requestFault.detachFeed.weighDrain

theorem commitNext_members (p : ProcTxn) : ∀ (l : List StationId) {s : State}, GateHoldsMembers s →
    GateHoldsMembers (commitNext p l s)
  | [], _, h => commitEnd_members h
  | k :: l, s, h => by
    unfold commitNext
    split
    · split
      · exact commitNext_members p l h.travelFault
      · exact h.startWork
    · exact commitNext_members p l h

theorem postOk_members (k : StationId) (copy : Record) (h : GateHoldsMembers s) :
    GateHoldsMembers (postOk k copy s) := by
  unfold postOk
  split
  · have hpost : GateHoldsMembers (s.advancePost k) := h.setStation rfl
    exact hpost.countClamp.weighDrain
  · exact h

theorem postFault_members (k : StationId) (addr : Word) (copy : Record) (h : GateHoldsMembers s) :
    GateHoldsMembers (postFault k addr copy s) := h.logError.requestFault.detachFeed.weighDrain

theorem journalWriteAnswer_members (ans : WriteAnswer) (h : GateHoldsMembers s) :
    GateHoldsMembers (journalWriteAnswer ans s) := by
  unfold journalWriteAnswer
  split
  · cases ans with
    | ok => exact commitNext_members _ _ h.portAnswered
    | fault => exact commitFail_members _ h.portAnswered
  all_goals exact h

theorem postWriteAnswer_members (ans : WriteAnswer) (h : GateHoldsMembers s) :
    GateHoldsMembers (postWriteAnswer ans s) := by
  unfold postWriteAnswer
  split
  · cases ans with
    | ok => exact commitNext_members _ _ (postOk_members _ _ h.portAnswered)
    | fault => exact commitNext_members _ _ (postFault_members _ _ _ h.portAnswered)
  all_goals exact h

/-! ### The replay engine -/

theorem replayTurnGrant_members (h : GateHoldsMembers s) : GateHoldsMembers (replayTurnGrant s) := by
  unfold replayTurnGrant
  split <;> exact h

theorem turnOutcome_members (t : ReplayTurn) (ans : ReadAnswer 8) (h : GateHoldsMembers s) :
    GateHoldsMembers (turnOutcome t ans s) := by
  have hend : GateHoldsMembers (s.portAnswered.setTurn none) := h.portAnswered.setTurn
  have hcopy : ∀ copy, GateHoldsMembers (turnCopy t copy s) := fun copy => by
    have hpost : GateHoldsMembers (s.setStation t.station
      { s.stations[t.station] with post := t.seq + 1#16 }) := h.setStation rfl
    exact hpost.setTurn.setPort.weighDrain
  unfold turnOutcome
  dsimp only
  split
  · exact hend.logError.loseFeed
  · split
    · split
      · exact hend.travelFault
      · exact hcopy _
    · exact hend.loseFeed

theorem replayReadAnswer_members (ans : ReadAnswer 8) (h : GateHoldsMembers s) :
    GateHoldsMembers (replayReadAnswer ans s) := by
  unfold replayReadAnswer
  split
  · split
    · exact h
    · split
      · exact h.portAnswered.setTurn
      · exact turnOutcome_members _ ans h
  all_goals exact h

theorem turnWritten_members (t : ReplayTurn) (copy : Record) (h : GateHoldsMembers s) :
    GateHoldsMembers (turnWritten t copy s) := by
  unfold turnWritten
  split
  · exact h
  · exact h.countClamp.joinLive

theorem replayWriteAnswer_members (ans : WriteAnswer) (h : GateHoldsMembers s) :
    GateHoldsMembers (replayWriteAnswer ans s) := by
  have hend : GateHoldsMembers (s.portAnswered.setTurn none) := h.portAnswered.setTurn
  unfold replayWriteAnswer
  split
  · split
    · exact h
    · cases ans with
      | ok => exact turnWritten_members _ _ hend
      | fault => exact hend.logError.loseFeed
  all_goals exact h

end Sys2Proof.Machine
end

section
/-! The memory port, start-up and the processor port keep the gate's member set right (R89), and so does
every step. -/

namespace Sys2Proof.Machine

variable {s : State}

/-! ### The memory port and the status writer -/

theorem grantTo_members (r : Requester) (h : GateHoldsMembers s) : GateHoldsMembers (grantTo r s) := by
  have hrecord : ∀ {t : State} r, GateHoldsMembers t → GateHoldsMembers (beginRecord r t) :=
    fun _ ht => ht
  have hstatus : GateHoldsMembers (grantStatus s) := by
    unfold grantStatus
    split
    · exact hrecord _ h
    · exact h
  have hpass : ∀ i, GateHoldsMembers (grantPass i s) := fun i => by
    unfold grantPass
    split
    case h_4 => exact hrecord _ h.owe
    all_goals exact h
  unfold grantTo
  split
  case h_4 =>
    split
    · exact hpass _
    · exact hstatus
  all_goals split <;> exact h

theorem arbiterGrant_members (h : GateHoldsMembers s) : GateHoldsMembers (arbiterGrant s) := by
  unfold arbiterGrant
  split
  · split
    · exact grantTo_members _ h.setPort
    · exact h
  · exact h

theorem statusFault_members (w : StatusWrite) (t : MemTxn) (h : GateHoldsMembers s) :
    GateHoldsMembers (statusFault w t s) := by
  unfold statusFault
  rw [returnOwed_frame]
  exact GateHoldsMembers.logError (s := { endStatusWrite s with writer := _ }) h

theorem statusWriteAnswer_members (ans : WriteAnswer) (h : GateHoldsMembers s) :
    GateHoldsMembers (statusWriteAnswer ans s) := by
  unfold statusWriteAnswer
  split
  · split
    · exact h
    · exact h
    · exact statusFault_members _ _ h
  all_goals exact h

theorem passGoesOn_members (i : Nat) (h : GateHoldsMembers s) : GateHoldsMembers (passGoesOn i s) := by
  rw [passGoesOn_frame]
  exact h

theorem initWriteAnswer_members (ans : WriteAnswer) (h : GateHoldsMembers s) :
    GateHoldsMembers (initWriteAnswer ans s) := by
  unfold initWriteAnswer
  split
  · split
    · exact passGoesOn_members (s := secondHalf _ _ _ s) _ h
    · exact passGoesOn_members (s := setPendingBits _ (endStatusWrite s)) _ h
    · exact passGoesOn_members _ (statusFault_members _ _ h)
    · exact passGoesOn_members _ (statusFault_members _ _ h)
  all_goals exact h

theorem drainOutcome_members (k : StationId) (d : DrainRead) (ans : ReadAnswer 8)
    (h : GateHoldsMembers s) : GateHoldsMembers (drainOutcome k d ans s) := by
  have hspoil : ∀ {t : State}, GateHoldsMembers t → GateHoldsMembers (spoil k d.seq t) := fun ht => by
    unfold spoil
    split
    · exact ht.setLink
    · exact ht
  unfold drainOutcome
  split
  · split
    · exact h.setLink
    · exact hspoil h.requestFault
  · exact hspoil h.logError.requestFault

theorem drainReadAnswer_members (ans : ReadAnswer 8) (h : GateHoldsMembers s) :
    GateHoldsMembers (drainReadAnswer ans s) := by
  have hend : ∀ k, GateHoldsMembers (endDrain k s) := fun _ => h.portAnswered.setLink
  unfold drainReadAnswer
  split
  · split
    · split
      · exact (hend _).weighDrain
      · exact (drainOutcome_members _ _ ans (hend _)).weighDrain
    · exact h
  all_goals exact h

/-! ### Start-up and the resets -/

/-- Every station in its reset state and no member. -/
theorem gateHoldsMembers_of_reset (hs : s.stations = State.reset.stations) (hg : s.gate = Gate.reset) :
    GateHoldsMembers s := fun k => by
  rw [hs, hg]
  exact reset_gateHoldsMembers k

theorem busReset_members (h : GateHoldsMembers s) : GateHoldsMembers (busReset s) := by
  unfold busReset
  split
  · exact h
  · split
    · exact h
    · exact gateHoldsMembers_of_reset rfl rfl

theorem porstNegation_members (v : InputLevels) (h : GateHoldsMembers s) :
    GateHoldsMembers (porstNegation v s) := by
  unfold porstNegation
  split <;> exact h

theorem startPass_members (h : GateHoldsMembers s) : GateHoldsMembers (startPass s) := by
  rw [startPass_eq]
  exact h

theorem busrstNegation_members (h : GateHoldsMembers s) : GateHoldsMembers (busrstNegation s) := by
  unfold busrstNegation
  split
  · split
    · exact h
    · exact startPass_members (s := { s with busrst := false }) h
  · exact h

theorem bootAttempt_members (h : GateHoldsMembers s) : GateHoldsMembers (bootAttempt s) := by
  unfold bootAttempt
  split <;> exact h

theorem bootDone_members (r : Regions) (h : GateHoldsMembers s) : GateHoldsMembers (bootDone r s) := by
  rw [bootDone_eq]
  exact h

theorem driving_members (acts : List BusAct) (h : GateHoldsMembers s) :
    GateHoldsMembers (driving acts s) := h

theorem readEnded_members (acts : List BusAct) (got : List Byte) (h : GateHoldsMembers s) :
    GateHoldsMembers (driving acts (withBytes got s)) := h

theorem strapsAfterError_members (c : BootCause) (h : GateHoldsMembers s) :
    GateHoldsMembers (takeStraps (logBootBad c s)) := bootDone_members _ h.logError

theorem bootBusBusyTimeout_members (h : GateHoldsMembers s) :
    GateHoldsMembers (bootBusBusyTimeout s) := by
  unfold bootBusBusyTimeout
  split
  · exact strapsAfterError_members _ h.reach
  all_goals exact h

theorem bootDeviceNack_members (h : GateHoldsMembers s) : GateHoldsMembers (bootDeviceNack s) := by
  unfold bootDeviceNack
  split
  · exact bootDone_members _ (driving_members _ h)
  · exact h

theorem bootAddressNack_members (h : GateHoldsMembers s) : GateHoldsMembers (bootAddressNack s) := by
  unfold bootAddressNack
  split
  · exact strapsAfterError_members _ (driving_members _ h)
  · exact h

theorem bootStretchTimeout_members (got : List Byte) (h : GateHoldsMembers s) :
    GateHoldsMembers (bootStretchTimeout got s) := by
  unfold bootStretchTimeout
  split
  · exact strapsAfterError_members _ (readEnded_members _ _ h)
  · exact h

theorem bootArbitrationLost_members (lost : LostAttempt) (h : GateHoldsMembers s) :
    GateHoldsMembers (bootArbitrationLost lost s) := by
  unfold bootArbitrationLost
  split
  · split
    · exact h
    · exact strapsAfterError_members _ (readEnded_members _ _ h)
  · exact h

theorem bootReadEnd_members (b : Vector Byte 16) (h : GateHoldsMembers s) :
    GateHoldsMembers (bootReadEnd b s) := by
  unfold bootReadEnd
  dsimp only
  split
  · split
    · exact bootDone_members _ (readEnded_members _ _ h)
    · exact strapsAfterError_members _ (readEnded_members _ _ h)
  · exact h

/-! ### Job commands -/

theorem startJobCommand_members (w : Word) (h : GateHoldsMembers s) :
    GateHoldsMembers (startJobCommand w s) := by
  have hopen : GateHoldsMembers (startOpen w s) := by
    unfold startOpen
    split <;> exact h
  have hclose : GateHoldsMembers (startClose s) := by
    unfold startClose
    split <;> exact h
  unfold startJobCommand
  split
  · exact h
  · exact hopen
  · exact hclose
  · exact h.completeJob

theorem openComplete_members (ans : ReadAnswer 4) (h : GateHoldsMembers s) :
    GateHoldsMembers (openComplete ans s) := by
  have hopen : ∀ index start, GateHoldsMembers (completeOpen index start ans s.portAnswered) := by
    intro index start
    unfold completeOpen
    split
    · exact h.portAnswered.logError.completeJob
    · split
      · exact h
      · split <;> exact h
  unfold openComplete
  split
  · exact hopen _ _
  · exact h
  · exact h

/-! ### Writes into the control page -/

theorem applyStationWord_members (k : StationId) (n : Fin 16) (v : Word) (h : GateHoldsMembers s) :
    GateHoldsMembers (applyStationWord k n v s) := by
  have hset : GateHoldsMembers (setStationShadow (if n = 14 then s.breakDue k else s) k n v) := by
    split
    · exact h.breakDue
    · exact h
  unfold applyStationWord
  dsimp only
  generalize setStationShadow (if n = 14 then s.breakDue k else s) k n v = t at hset
  have hline : GateHoldsMembers (copyLine k t) := by
    unfold copyLine
    split <;> exact hset
  have htimer : GateHoldsMembers (restartAckTimer k t) := by
    unfold restartAckTimer
    split <;> exact hset
  split
  · exact hline
  · split
    · exact htimer.breakDue
    · split
      · exact startStationCommand_members k v hset
      · exact hset

theorem applyJobWord_members (n : Fin 16) (v : Word) (h : GateHoldsMembers s) :
    GateHoldsMembers (applyJobWord n v s) := by
  have hset : GateHoldsMembers (setJobShadow s n v) := h
  unfold applyJobWord
  dsimp only
  split
  · unfold acknowledge
    dsimp only
    split <;> exact hset
  · split
    · exact startJobCommand_members v hset
    · exact hset

theorem applyWord_members (v : Word) (a : PageWord) (h : GateHoldsMembers s) :
    GateHoldsMembers (applyWord v s a) := by
  cases a with
  | table i => exact h
  | station k n => exact applyStationWord_members k n v h
  | job n => exact applyJobWord_members n v h
  | unused => exact h
  | status => exact h

theorem applyWords_members : ∀ (ws : List WriteWord) (n : Nat) {s : State}, GateHoldsMembers s →
    GateHoldsMembers (applyWords n ws s)
  | [], _, _, h => h
  | w :: ws, n, _, h => applyWords_members ws (n + 4) (applyWord_members w.data (pageWord n) h)

theorem pageWrite_members (t : WriteTxn) (h : GateHoldsMembers s) : GateHoldsMembers (pageWrite t s) := by
  unfold pageWrite
  dsimp only
  split
  · exact h.refuse
  · exact h.answer
  · exact (applyWords_members _ _ h).startWork

/-! ### The processor port and the descriptor search -/

theorem actOnWindow_members (p : ProcTxn) (index : BitVec 5) (d : Descriptor) (h : GateHoldsMembers s) :
    GateHoldsMembers (actOnWindow p index d s) := by
  have hpass : GateHoldsMembers (actOnPass p d s) := by
    unfold actOnPass
    split
    · exact h.refuse
    · exact h.refuse
    · exact h
  unfold actOnWindow
  split
  · exact hpass
  · exact h
  · split
    · exact journalWrite_members _ h
    · exact h.refuse
  · exact h
  · exact h.refuse
  · exact h.refuse

theorem windowAccess_members (p : ProcTxn) (h : GateHoldsMembers s) :
    GateHoldsMembers (windowAccess p s) := by
  unfold windowAccess
  split
  · exact actOnWindow_members (s := { s with cache := _ }) _ _ _ h
  · exact h

theorem present_members (p : ProcTxn) (h : GateHoldsMembers s) : GateHoldsMembers (present p s) := by
  have hpage : GateHoldsMembers (pageAccess p s) := by
    unfold pageAccess
    split
    · exact h
    · exact pageWrite_members _ h
  have hrouted : GateHoldsMembers (routed p s) := by
    unfold routed
    split
    · split
      · exact hpage
      · split
        · exact windowAccess_members p h
        · exact h
    · exact h
  unfold present
  split
  · exact h
  · split
    · exact h
    · split
      · exact h.refuse
      · exact hrouted

theorem searchFault_members (a : Word) (h : GateHoldsMembers s) : GateHoldsMembers (searchFault a s) :=
  h.setJob.logError.answer

theorem scanReadAnswer_members (ans : ReadAnswer 2) (h : GateHoldsMembers s) :
    GateHoldsMembers (scanReadAnswer ans s) := by
  have hfree := h.portAnswered
  have hdecided : ∀ p got, GateHoldsMembers (scanDecision p got s.portAnswered) := fun p got => by
    unfold scanDecision
    split
    · exact hfree.setJob.refuse
    · split
      · exact hfree.setJob.refuse
      · exact hfree
  unfold scanReadAnswer
  split
  · cases ans with
    | fault => exact searchFault_members _ hfree
    | ok v =>
      dsimp only
      split
      · exact hfree
      · exact hdecided _ _
  all_goals exact h

theorem detailReadAnswer_members (ans : ReadAnswer 2) (h : GateHoldsMembers s) :
    GateHoldsMembers (detailReadAnswer ans s) := by
  have hfree := h.portAnswered
  have hfound : ∀ p index d, GateHoldsMembers (searchFound p index d s.portAnswered) := fun p index d =>
    actOnWindow_members (s := { countSearch s.portAnswered with cache := _ }) p index d hfree
  unfold detailReadAnswer
  split
  · cases ans with
    | fault => exact searchFault_members _ hfree
    | ok v =>
      dsimp only
      split
      · exact hfound _ _ _
      · exact hfree.setJob.refuse
  all_goals exact h

theorem forwardAnswer_members (ans : ForwardAnswer) (h : GateHoldsMembers s) :
    GateHoldsMembers (forwardAnswer ans s) := by
  unfold forwardAnswer
  split
  · cases ans with
    | ok data => exact h.portAnswered.answer
    | fault => exact h.portAnswered.refuse
  all_goals exact h

/-! ### Every step -/

section Rows

variable {t : State}

/-- A row of the kind that always acts. -/
theorem goOn_members {u : State} (hu : GateHoldsMembers u) (h : goOn u = .next t) :
    GateHoldsMembers t := by
  obtain rfl := Host.Outcome.next.inj h
  exact hu

theorem act_members {f : State → State} (hf : GateHoldsMembers s → GateHoldsMembers (f s))
    (hs : GateHoldsMembers s) : GateHoldsMembers (s.act f) := by
  unfold State.act
  split
  · exact hs
  · exact hf hs

/-- A row that does nothing under PORST_N. -/
theorem goOn_act_members {f : State → State} (hf : GateHoldsMembers s → GateHoldsMembers (f s))
    (hs : GateHoldsMembers s) (h : goOn (s.act f) = .next t) : GateHoldsMembers t :=
  goOn_members (act_members hf hs) h

/-- An answer row. -/
theorem actAnswer_members {α : Type} {f : α → State → State} {a : Arrived α}
    (hf : ∀ x, GateHoldsMembers s → GateHoldsMembers (f x s)) (hs : GateHoldsMembers s)
    (h : s.actAnswer f a = .next t) : GateHoldsMembers t := by
  rcases actAnswer_next h with rfl | ⟨late, x, -, rfl⟩
  · exact hs
  · exact (act_members (hf x) hs).setPort

/-- A row by which the processor presents a transaction. -/
theorem presented_members {p : ProcTxn} (hs : GateHoldsMembers s) (h : presented p s = .next t) :
    GateHoldsMembers t := goOn_members (u := report s (present p s)) (present_members p hs) h

end Rows

theorem exec_members {i : Instr} {t : State} (hs : GateHoldsMembers s) (h : exec i s = .next t) :
    GateHoldsMembers t := by
  cases i with
  | powerOnReset => exact goOn_members (u := Machine.powerOnReset s) (gateHoldsMembers_of_reset rfl rfl) h
  | porstNegation levels => exact goOn_members (porstNegation_members levels hs) h
  | busReset => exact goOn_members (busReset_members hs) h
  | busrstNegation => exact goOn_members (busrstNegation_members hs) h
  | bootAttempt => exact goOn_act_members bootAttempt_members hs h
  | bootBusBusyTimeout => exact goOn_act_members bootBusBusyTimeout_members hs h
  | bootDeviceNack => exact goOn_act_members bootDeviceNack_members hs h
  | bootAddressNack => exact goOn_act_members bootAddressNack_members hs h
  | bootStretchTimeout got => exact goOn_act_members (bootStretchTimeout_members got) hs h
  | bootArbitrationLost lost => exact goOn_act_members (bootArbitrationLost_members lost) hs h
  | bootReadEnd bytes => exact goOn_act_members (bootReadEnd_members bytes) hs h
  | initWriteAnswer ans => exact actAnswer_members initWriteAnswer_members hs h
  | scanReadAnswer ans => exact actAnswer_members scanReadAnswer_members hs h
  | detailReadAnswer ans => exact actAnswer_members detailReadAnswer_members hs h
  | forwardAnswer ans => exact actAnswer_members forwardAnswer_members hs h
  | journalWriteAnswer ans => exact actAnswer_members journalWriteAnswer_members hs h
  | postWriteAnswer ans => exact actAnswer_members postWriteAnswer_members hs h
  | processorRead | processorWrite | journalWindowWrite | descriptorTableWrite | controlBlockWrite
  | breakFilterTimeWrite | breakPolarityWrite | ackTimeoutWrite | acknowledgeWrite
  | interruptEnableWrite => exact presented_members hs h
  | openJob | closeJob | jobBadCmd => exact presented_members hs h
  | attach | detach | reattach | hold | resume | clear | release | stationBadCmd =>
    exact presented_members hs h
  | openComplete ans => exact actAnswer_members openComplete_members hs h
  | attachComplete ans => exact actAnswer_members attachComplete_members hs h
  | releaseComplete k => exact goOn_act_members (releaseComplete_members k) hs h
  | replayTurnGrant => exact goOn_act_members replayTurnGrant_members hs h
  | replayReadAnswer ans => exact actAnswer_members replayReadAnswer_members hs h
  | replayWriteAnswer ans => exact actAnswer_members replayWriteAnswer_members hs h
  | arbiterGrant => exact goOn_act_members arbiterGrant_members hs h
  | statusWriteAnswer ans => exact actAnswer_members statusWriteAnswer_members hs h
  | drainReadAnswer ans => exact actAnswer_members drainReadAnswer_members hs h
  | frameEnd k => exact goOn_act_members (frameEnd_members k) hs h
  | accFrame k => exact goOn_act_members (accFrame_members k) hs h
  | doneFrame k => exact goOn_act_members (doneFrame_members k) hs h
  | nakCheck k => exact goOn_act_members (nakCheck_members k) hs h
  | nakFull k => exact goOn_act_members (nakFull_members k) hs h
  | nakTravel k => exact goOn_act_members (nakTravel_members k) hs h
  | fltFrame k => exact goOn_act_members (fltFrame_members k) hs h
  | ackTimerExpiry k => exact goOn_act_members (ackTimerExpiry_members k) hs h
  | haltBegin k => exact goOn_act_members (haltBegin_members k) hs h
  | goBegin k => exact goOn_act_members (goBegin_members k) hs h
  | segBegin k => exact goOn_act_members (segBegin_members k) hs h
  | resendBegin k => exact goOn_act_members (resendBegin_members k) hs h
  | frameTransmitEnd k => exact goOn_act_members (frameTransmitEnd_members k) hs h
  | readyChange k asserted => exact goOn_members hs.setLink h
  | breakLineChange k level => exact goOn_act_members (breakLineChange_members k level) hs h
  | breakQualifiedChange k => exact goOn_act_members (breakQualifiedChange_members k) hs h
  | stopLineChange level => exact goOn_act_members (stopLineChange_members level) hs h
  | stopAssertion => exact goOn_act_members stopAssertion_members hs h
  | stopNegation => exact goOn_act_members stopNegation_members hs h
  | characterComplete k sample => exact goOn_act_members (characterComplete_members k sample) hs h
  | lineReturnedToMark k => exact goOn_act_members (fun hs => hs.setLink) hs h

/-- Settles O56: the front command keeps the member set right, and the passing of time leaves it. -/
theorem stepsKeepGateMembers : Obligations.StepsKeepGateMembers := by
  intro s t hs h
  unfold step at h
  split at h
  · next c rest _ => exact exec_members (s := { s with pending := rest }) hs h
  · obtain rfl := Host.Outcome.next.inj h
    exact hs

end Sys2Proof.Machine
end

section
/-! The frames that a link sends: when each begins (R108, R109, R114, R119), its bytes (R104, R189), and the
bits that TXDk carries (R100, R103). -/

namespace Sys2Proof.Machine

/-! ### The bits of a frame (R100, R103) -/

/-- Bit j of a character as sent, true for mark (R100). -/
def sentBit (l : LineSettings) (c : Byte) (j : Nat) : Bool :=
  if j = 0 then false
  else if j ≤ 8 then c.getLsbD (j - 1)
  else if j = 9 then match l.parity with
    | .none => true
    | .even => ones c % 2 == 1
    | .odd => ones c % 2 == 0
  else true

theorem charBits_length (l : LineSettings) (c : Byte) : (charBits l c).length = bitsPerChar l := by
  unfold charBits bitsPerChar
  cases l.parity <;> cases l.twoStopBits <;> rfl

/-- At most 12 bits, under each parity and either number of stop bits. -/
theorem charBits_get (l : LineSettings) (c : Byte) {j : Nat} (hj : j < bitsPerChar l) :
    (charBits l c)[j]? = some (sentBit l c j) := by
  obtain ⟨d, parity, twoStopBits, invert⟩ := l
  cases parity <;> cases twoStopBits <;>
    simp only [bitsPerChar, Nat.reduceAdd, add_zero, reduceCtorEq, Bool.false_eq_true, ↓reduceIte] at hj <;>
    interval_cases j <;> rfl

/-- Characters go back to back (R103). -/
theorem frameBits_get (l : LineSettings) {c : Byte} {j : Nat} (hj : j < bitsPerChar l) :
    ∀ {bytes : List Byte} {i : Nat}, bytes[i]? = some c →
      (frameBits l bytes)[bitsPerChar l * i + j]? = some (sentBit l c j)
  | [], _, h => nomatch h
  | b :: bytes, 0, h => by
    obtain rfl := Option.some.inj h
    rw [frameBits, List.flatMap_cons, Nat.mul_zero, Nat.zero_add,
      List.getElem?_append_left (by rwa [charBits_length]), charBits_get l b hj]
  | b :: bytes, i + 1, h => by
    have hrest := frameBits_get l hj (bytes := bytes) (i := i) h
    rw [frameBits, List.flatMap_cons,
      List.getElem?_append_right (by rw [charBits_length, Nat.mul_succ]; omega), charBits_length, ← hrest, frameBits]
    congr 1
    rw [Nat.mul_succ]
    omega

/-- TXDk rests at mark while no frame is in transmission. -/
theorem txdHigh_idle {s : State} {k : StationId} (h : s.links[k].tx = none) :
    s.txdHigh k = !s.links[k].line.invert := by
  unfold State.txdHigh
  simp only [h]
  cases s.links[k].line.invert <;> rfl

/-- TXDk carries bit j of character i while it is due. -/
theorem txdHigh_sending {s : State} {k : StationId} {t : Tx} {i j : Nat} {c : Byte}
    (ht : s.links[k].tx = some t) (hc : t.bytes[i]? = some c) (hj : j < bitsPerChar s.links[k].line)
    (hdue : (s.now - t.start) / cyclesPerBit s.links[k].line = bitsPerChar s.links[k].line * i + j) :
    s.txdHigh k = (sentBit s.links[k].line c j != s.links[k].line.invert) := by
  unfold State.txdHigh
  simp only [ht, hdue, List.getD_eq_getElem?_getD, frameBits_get _ hj hc, Option.getD_some]

/-! ### The bytes of a frame (R104, R189) -/

/-- The check byte makes the sum of a frame zero (R104). -/
theorem byteSum_withCheck (bs : List Byte) : byteSum (withCheck bs) = 0#8 := by
  unfold withCheck byteSum
  rw [List.foldl_append]
  exact BitVec.add_right_neg _

theorem goFrame_eq : goFrame = [0x53#8, 0xAD#8] := rfl

/-- A SEG carries the copy's words in memory order, each from its least significant byte (R189). -/
theorem segFrame_get (m : Record) (w : Fin 8) (b : Fin 4) :
    (segFrame m)[1 + 4 * w.val + b.val]? = some (m[w].extractLsb' (8 * b.val) 8) := by
  fin_cases w <;> fin_cases b <;> rfl

/-! ### A row of the transmitter -/

/-- A row whose event changes nothing answers the state as it is. -/
theorem goOn_unchanged {s : State} {f : State → State} (h : f s = s) : goOn (s.act f) = .next s := by
  unfold State.act
  split
  · rfl
  · rw [h, report_self]
    rfl

/-- A frame begun on link k, which has become `l` besides (R108). -/
def State.begun (s : State) (k : StationId) (l : Link) (kind : TxKind) (bytes : List Byte) : State :=
  let now := max s.now (wireFreeAt s.links[k])
  { s with now := now, links := s.links.set k { l with tx := some ⟨kind, bytes, now⟩ } }

theorem beginTx_eq (s : State) (k : StationId) (kind : TxKind) (bytes : List Byte) :
    s.beginTx k kind bytes = s.begun k s.links[k] kind bytes := rfl

/-- Frames and times do not show in the status records, so a row that begins a frame marks none. -/
theorem goOn_begins {s : State} {f : State → State} {k : StationId} {l : Link} {kind : TxKind}
    {bytes : List Byte} (hp : s.porst = false) (h : f s = s.begun k l kind bytes) :
    goOn (s.act f) = .next (s.begun k l kind bytes) := by
  rw [act_running hp, h]
  exact congrArg Host.Outcome.next (report_of_shown rfl rfl rfl rfl rfl rfl rfl rfl)

/-! ### HALT and GO (R109, R110) -/

theorem haltBegin_begins {s : State} {k : StationId} {r : Byte} (htx : s.links[k].tx = none)
    (hslot : s.links[k].slot = .halt r) :
    haltBegin k s = s.begun k s.links[k] .halt [0x52#8, r, -(0x52#8 + r)] := by
  unfold haltBegin
  rw [htx, hslot]
  rfl

theorem haltBegin_stays {s : State} {k : StationId}
    (h : s.links[k].tx ≠ none ∨ ∀ r, s.links[k].slot ≠ .halt r) : haltBegin k s = s := by
  unfold haltBegin
  split
  · next htx hslot => exact (h.elim (absurd htx) fun hn => absurd hslot (hn _))
  all_goals rfl

theorem goBegin_begins {s : State} {k : StationId} (htx : s.links[k].tx = none)
    (hslot : s.links[k].slot = .go) (hready : s.links[k].ready = true) :
    goBegin k s = s.begun k { s.links[k] with slot := .empty } .go [0x53#8, 0xAD#8] := by
  unfold goBegin
  rw [htx, hslot]
  dsimp only
  rw [if_pos hready, beginTx_eq, goFrame_eq]
  unfold State.begun State.setLink
  simp only [get_set_self, vector_set_set]

theorem goBegin_stays {s : State} {k : StationId}
    (h : s.links[k].tx ≠ none ∨ ¬(s.links[k].slot = .go ∧ s.links[k].ready = true)) :
    goBegin k s = s := by
  unfold goBegin
  split
  · next htx hslot =>
    split
    · next hready => exact h.elim (absurd htx) (absurd ⟨hslot, hready⟩)
    · rfl
  all_goals rfl

/-! ### SEG (R114) -/

/-- The conditions of R114 but for the wire and the staged copy, with the queue depth that a setting of 0 or
of more than 8 acts as (R101). -/
def MaySendSeg (s : State) (k : StationId) : Prop :=
  s.stations[k].drive = .running ∧ seqBefore s.stations[k].send s.stations[k].post = true
    ∧ seqDist s.stations[k].done s.stations[k].send <
      (if fieldOf s.shadows.stations[k][12] 12 4 = 0 then 1
        else if 8 < fieldOf s.shadows.stations[k][12] 12 4 then 8
        else fieldOf s.shadows.stations[k][12] 12 4)
    ∧ (∀ e, s.gate.entries[0]? = some e → seqBefore e.seq s.stations[k].send = false)
    ∧ s.links[k].outstanding = none ∧ s.links[k].fullWait = false ∧ s.links[k].ready = true
    ∧ s.links[k].slot = .empty

theorem segEligible_iff (s : State) (k : StationId) :
    segEligible s k = true ↔ MaySendSeg s k ∧ s.links[k].tx = none := by
  unfold segEligible MaySendSeg
  rw [← cbQueueDepth_eq]
  simp only [Bool.and_eq_true, beq_iff_eq, decide_eq_true_eq, allows_iff, Option.isNone_iff_eq_none,
    Bool.not_eq_true', and_assoc, List.head?_eq_getElem?]

theorem segBegin_begins {s : State} {k : StationId} {m : Record} (htx : s.links[k].tx = none)
    (hm : s.links[k].staging = .copy s.stations[k].send m) (h : MaySendSeg s k) :
    segBegin k s = s.begun k s.links[k] (.seg s.stations[k].send false) (segFrame m) := by
  unfold segBegin
  rw [hm]
  dsimp only
  rw [if_pos (by rw [(segEligible_iff s k).mpr ⟨h, htx⟩, beq_self_eq_true]; rfl)]
  rfl

theorem segBegin_stays {s : State} {k : StationId}
    (h : s.links[k].tx ≠ none ∨ ¬MaySendSeg s k ∨ ∀ m, s.links[k].staging ≠ .copy s.stations[k].send m) :
    segBegin k s = s := by
  unfold segBegin
  split
  · next q m hm =>
    split
    · next hc =>
      obtain ⟨heligible, hq⟩ := (Bool.and_eq_true _ _).mp hc
      obtain ⟨hmay, htx⟩ := (segEligible_iff s k).mp heligible
      obtain rfl := beq_iff_eq.mp hq
      rcases h with h | h | h
      · exact absurd htx h
      · exact absurd hmay h
      · exact absurd hm (h m)
    · rfl
  all_goals rfl

/-! ### A resend (R119) -/

theorem resendBegin_begins {s : State} {k : StationId} {q c : Seq} {m : Record}
    (htx : s.links[k].tx = none) (ho : s.links[k].outstanding = some ⟨q, .resend⟩)
    (hm : s.links[k].staging = .copy c m) (hready : s.links[k].ready = true)
    (hslot : s.links[k].slot = .empty) :
    resendBegin k s = (s.begun k { s.links[k] with outstanding := some ⟨q, .onWire⟩ } (.resend q false)
      (segFrame m)).countRetry k := by
  unfold resendBegin
  dsimp only
  rw [ho, hm]
  dsimp only
  rw [if_pos (by rw [htx, hready, hslot]; rfl), beginTx_eq]
  unfold State.begun State.setLink
  simp only [get_set_self, vector_set_set, hm]

theorem resendBegin_stays {s : State} {k : StationId}
    (h : s.links[k].tx ≠ none ∨ (∀ q, s.links[k].outstanding ≠ some ⟨q, .resend⟩)
      ∨ (∀ c m, s.links[k].staging ≠ .copy c m)
      ∨ ¬(s.links[k].ready = true ∧ s.links[k].slot = .empty)) : resendBegin k s = s := by
  unfold resendBegin
  dsimp only
  split
  · next q c m ho hm =>
    split
    · next hc =>
      rw [Bool.and_eq_true, Bool.and_eq_true, Option.isNone_iff_eq_none, beq_iff_eq] at hc
      obtain ⟨⟨htx, hready⟩, hslot⟩ := hc
      rcases h with h | h | h | h
      · exact absurd htx h
      · exact absurd ho (h q)
      · exact absurd hm (h c m)
      · exact absurd ⟨hready, hslot⟩ h
    · rfl
  all_goals rfl

/-! ### The statement -/

/-- Settles O51: READY and TXDk, each begin row while a frame is in transmission, each when the wire is free,
and the bytes of a SEG. -/
theorem framesBegin : Obligations.FramesBegin := by
  refine ⟨fun s k b _ => rfl, fun s k => ⟨txdHigh_idle, fun t i j c ht hc hj hdue => ?_⟩,
    fun s k i htx hi => ?_, fun s k hp htx => ?_,
    fun m => ⟨rfl, byteSum_withCheck _, rfl, segFrame_get m⟩⟩
  · exact txdHigh_sending ht hc hj hdue
  · rcases hi with rfl | rfl | rfl | rfl
    · exact goOn_unchanged (haltBegin_stays (.inl htx))
    · exact goOn_unchanged (goBegin_stays (.inl htx))
    · exact goOn_unchanged (segBegin_stays (.inl htx))
    · exact goOn_unchanged (resendBegin_stays (.inl htx))
  · refine ⟨fun r hslot => goOn_begins hp (haltBegin_begins htx hslot),
      fun hslot => goOn_unchanged (haltBegin_stays (.inr hslot)),
      fun hslot hready => goOn_begins hp (goBegin_begins htx hslot hready),
      fun hn => goOn_unchanged (goBegin_stays (.inr hn)),
      fun m hm hmay => goOn_begins hp (segBegin_begins htx hm hmay),
      fun hn => goOn_unchanged (segBegin_stays (.inr (.inl hn))),
      fun hm => goOn_unchanged (segBegin_stays (.inr (.inr hm))),
      fun q c m ho hm hmay => ?_,
      fun ho => goOn_unchanged (resendBegin_stays (.inr (.inl ho))),
      fun hm => goOn_unchanged (resendBegin_stays (.inr (.inr (.inl hm)))),
      fun hn => goOn_unchanged (resendBegin_stays (.inr (.inr (.inr hn))))⟩
    obtain ⟨hready, hslot⟩ := hmay
    have hrow := resendBegin_begins htx ho hm hready hslot
    exact endsIn_same (congrArg Host.Outcome.next ((act_running hp _).trans (congrArg (report s) hrow))) rfl

end Sys2Proof.Machine
end

section
/-! DONE (R123), and the decision between a resend and LINK_TIMEOUT that NAK(CHECK) and the ack timer's
expiry ask for (R116, R118). -/

namespace Sys2Proof.Machine

/-- A frame taken while the feed is not OFF, and found stale as it is handled (R107, R118, R123). -/
theorem frameStale_ends {s : State} {k : StationId} {d : DriveFrame} {rest : List DriveFrame}
    (hp : s.porst = false) (hidle : s.stations[k].progress = .idle) (hon : s.stations[k].feed ≠ .off)
    (hq : s.links[k].queue = d :: rest)
    (hstale : frameTaken k d (s.popFrame k) = (s.popFrame k).countStale k) :
    EndsIn (frameRow k d) s
      { s with
        links := s.links.set k { s.links[k] with queue := rest }
        stations := s.stations.set k { s.stations[k] with counters :=
          { s.stations[k].counters with stale := satInc s.stations[k].counters.stale } } }
      s.writer.owed [] := by
  refine endsIn_same ((exec_frameRow_on hp hidle hon hq).trans ?_) rfl
  rw [← popFrame_head hq, hstale, popFrame_head hq, countStale_popped]

/-! ### DONE -/

/-- A DONE for sequence done, as one update with the staging condition weighed (R111, R123). -/
theorem doneTaken_inOrder {s : State} {k : StationId} {q : Seq} (hq : q = s.stations[k].done)
    (hpost : seqBefore s.stations[k].done s.stations[k].post = true) :
    doneTaken k q s = { s with
      stations := s.stations.set k (doneStation s.stations[k])
      links := s.links.set k ((doneLink s.stations[k] s.links[k]).drained (doneStation s.stations[k]))
      gate := s.gate.completed k q } := by
  unfold doneTaken
  rw [if_pos ⟨hq, hpost⟩, weighDrain_eq]
  simp only [State.setStation, State.setLink, State.setGate, get_set_self, vector_set_set]

/-- Settles O48: the DONE in order, by whether it leaves send before done, and the stale one. -/
theorem DriveLinks.doneTaken : Obligations.DoneTaken := by
  intro s k q rest hp hidle hon hq st l carries ahead carried kept given
  have htaken : q = st.done → seqBefore st.done st.post = true →
      exec (.doneFrame k) s = .next (report s { s with
        stations := s.stations.set k (doneStation st)
        links := s.links.set k ((doneLink st { l with queue := rest }).drained (doneStation st))
        gate := s.gate.completed k q }) := fun hd hpost => by
    refine (exec_frameRow_on hp hidle hon hq).trans ?_
    rw [frameTaken, doneTaken_inOrder (by exact hd) (by exact hpost)]
    simp only [get_set_self, vector_set_set]
    rfl
  refine ⟨fun hd hpost => ⟨fun hc => ?_, fun hc => ?_⟩,
    fun hno => frameStale_ends hp hidle hon hq (if_neg hno)⟩
  · refine endsIn_same ((htaken hd hpost).trans ?_) rfl
    rw [doneStation, doneLink, if_neg hc, if_neg hc]
  · refine endsIn_same ((htaken hd hpost).trans ?_) rfl
    rw [doneStation, doneLink, if_pos hc, if_pos hc]
    rfl

/-! ### NAK(CHECK) and the ack timer's expiry -/

/-- The outstanding SEG is the one the frame names, in the WAITING phase (R118). -/
theorem segWaiting_iff (l : Link) (q : Seq) :
    segWaiting l q = true ↔ l.outstanding = some ⟨q, .waiting⟩ := by
  unfold segWaiting
  cases l.outstanding with
  | none => simp
  | some o =>
    obtain ⟨p, phase⟩ := o
    simp

/-- Up to the retry limit a resend is decided (R118). -/
theorem retryDecision_within {s : State} {k : StationId}
    (h : s.links[k].retry + 1 ≤ fieldOf s.shadows.stations[k][12] 16 3) :
    retryDecision k s = { s with links := s.links.set k { s.links[k] with
      ackTimer := none
      retry := s.links[k].retry + 1
      outstanding := s.links[k].outstanding.map fun o => { o with phase := .resend } } } := if_pos h

/-- Past the retry limit the drive is asked to enter FAULT with LINK_TIMEOUT (R118). -/
theorem retryDecision_past {s : State} {k : StationId}
    (h : ¬s.links[k].retry + 1 ≤ fieldOf s.shadows.stations[k][12] 16 3) :
    retryDecision k s =
      (State.faultedWith { s with links := s.links.set k { s.links[k] with
          ackTimer := none, retry := s.links[k].retry + 1 } } k
        .linkTimeout (some 17#8) fun _ l => l).owe (.station k) (faultEvent s.stations[k] k) :=
  (if_neg h).trans (requestFault_faultedWith ..)

/-- Settles O49: NAK(CHECK) for the waiting SEG and the expiry are one decision, taken on the state
without the frame and on the state at the timer's end. -/
theorem retryOrTimeout : Obligations.RetryOrTimeout := by
  intro s k hp st within resent given owed
  constructor
  · intro q rest hidle hon hq l
    have hlink : (s.popFrame k).links[k] = l := by
      rw [popFrame_head hq]
      exact get_set_self _ _ _
    have hmatch : l.outstanding = some ⟨q, .waiting⟩ →
        exec (.nakCheck k) s = .next (report s (retryDecision k (s.popFrame k))) := fun hm => by
      refine (exec_frameRow_on hp hidle hon hq).trans ?_
      rw [← popFrame_head hq, frameTaken, if_pos rfl, nakCheckTaken, hlink,
        if_pos ((segWaiting_iff l q).mpr hm)]
    refine ⟨fun hm hw => ?_, fun hm hw => ?_, fun hno => ?_⟩
    · rw [hmatch hm, retryDecision_within (by rw [hlink]; exact hw), hlink, popFrame_head hq]
      simp only [vector_set_set]
      exact congrArg Host.Outcome.next (report_of_shown rfl rfl rfl rfl rfl rfl rfl rfl)
    · refine endsIn_owed ((hmatch hm).trans ?_) (faultedWith_writer ..)
      rw [retryDecision_past (by rw [hlink]; exact hw), hlink, popFrame_head hq]
      simp only [vector_set_set]
      rfl
    · refine frameStale_ends hp hidle hon hq ?_
      rw [frameTaken, if_pos rfl, nakCheckTaken, hlink, if_neg fun h => hno ((segWaiting_iff l q).mp h)]
  · intro t ht later
    have hexpiry : exec (.ackTimerExpiry k) s = .next (report s (retryDecision k later)) := by
      refine congrArg Host.Outcome.next ((act_running hp _).trans ?_)
      rw [ackTimerExpiry, ht]
      rfl
    refine ⟨fun hw => ?_, fun hw => endsIn_owed (hexpiry.trans ?_) (faultedWith_writer ..)⟩
    · rw [hexpiry, retryDecision_within (by exact hw)]
      exact congrArg Host.Outcome.next (report_of_shown rfl rfl rfl rfl rfl rfl rfl rfl)
    · rw [retryDecision_past (by exact hw)]

end Sys2Proof.Machine
end

section
/-! The receiver: characters make frames (R100 to R103, R105, R106), and what a frame's end does. -/

namespace Sys2Proof.Machine

/-! ### A character under its settings (R100 to R102) -/

/-- A stop bit is at space when its level is the one that invert names. -/
theorem readBit_space (l : LineSettings) (level : Bool) : (!readBit l level) = (level == l.invert) := by
  unfold readBit
  cases level <;> cases l.invert <;> rfl

theorem framingError_eq (l : LineSettings) (c : SampledChar) : framingError l c =
    (c.stop1High == l.invert || (l.twoStopBits && c.stop2High == l.invert)) := by
  rw [framingError, readBit_space, readBit_space]

theorem lastStopSpace_eq (l : LineSettings) (c : SampledChar) : lastStopSpace l c =
    ((if l.twoStopBits then c.stop2High else c.stop1High) == l.invert) := readBit_space ..

/-- Parity is wrong when the count of ones is odd under EVEN, or even under ODD. -/
theorem parityError_eq (l : LineSettings) (c : SampledChar) : parityError l c =
    match l.parity with
    | .none => false
    | .even => (ones (charByte l c) + (c.parityHigh != l.invert).toNat) % 2 == 1
    | .odd => (ones (charByte l c) + (c.parityHigh != l.invert).toNat) % 2 == 0 := by
  unfold parityError readBit
  cases l.parity with
  | none => rfl
  | even => exact Nat.mod_two_bne_zero
  | odd => exact Nat.mod_two_bne_one

/-! ### A character joins a frame (R103, R105, R106) -/

/-- The link's receiver after a character: the frame as it has become, and whether the line has to return
to mark first (R102). -/
def Link.charTaken (l : Link) (c : SampledChar) (f : RxFrame) : Link :=
  { l with rx := some f, waitMark := lastStopSpace (charSettings l c) c }

/-- A framing or parity error taints the frame (R102). -/
def Link.charTaints (l : Link) (c : SampledChar) : Bool :=
  framingError (charSettings l c) c || parityError (charSettings l c) c

theorem characterComplete_waiting {s : State} {k : StationId} (c : SampledChar)
    (h : s.links[k].waitMark = true) : characterComplete k c s = s := if_pos h

theorem characterComplete_next {s : State} {k : StationId} (c : SampledChar) {f : RxFrame}
    (hw : s.links[k].waitMark = false) (hf : s.links[k].rx = some f) :
    characterComplete k c s = { s with links := s.links.set k (s.links[k].charTaken c
      (f.next (charByte (charSettings s.links[k] c) c) (s.links[k].charTaints c) s.now)) } := by
  simp only [characterComplete, hw, hf, Bool.false_eq_true, if_false]
  rfl

theorem characterComplete_first {s : State} {k : StationId} (c : SampledChar)
    (hw : s.links[k].waitMark = false) (hf : s.links[k].rx = none) (hq : s.links[k].queue.length < 2) :
    characterComplete k c s = { s with links := s.links.set k (s.links[k].charTaken c
      ⟨.received, [charByte (charSettings s.links[k] c) c], 1, s.links[k].charTaints c, s.now⟩) } := by
  simp only [characterComplete, firstChar, hw, hf, hq, Bool.false_eq_true, if_false, if_true]
  rfl

theorem characterComplete_overrun {s : State} {k : StationId} (c : SampledChar)
    (hw : s.links[k].waitMark = false) (hf : s.links[k].rx = none) (hq : ¬s.links[k].queue.length < 2) :
    characterComplete k c s =
      State.countOverrun { s with links := s.links.set k (s.links[k].charTaken c
        ⟨.overrun, [], 1, false, s.now⟩) } k := by
  simp only [characterComplete, firstChar, hw, hf, hq, Bool.false_eq_true, if_false]
  rfl

/-! ### A frame's end (R105) -/

/-- A frame that passes the tests which do not speak of its type: sum 0, untainted, no byte beyond the
five kept. -/
def RxFrame.sums (f : RxFrame) : Prop :=
  byteSum f.kept = 0#8 ∧ f.tainted = false ∧ f.count = f.kept.length

theorem examineFrame_sums {f : RxFrame} (h : f.sums) : examineFrame f = frameOf f.kept := by
  obtain ⟨hsum, htaint, hcount⟩ := h
  unfold examineFrame
  rw [hsum, htaint, hcount]
  simp

theorem examineFrame_bad {f : RxFrame} (h : ¬f.sums ∨ frameOf f.kept = none) : examineFrame f = none := by
  unfold examineFrame
  split
  · rfl
  · next hgood =>
    refine h.resolve_left fun hno => hno ?_
    unfold RxFrame.sums
    simp_all

theorem frameEnd_queued {s : State} {k : StationId} {f : RxFrame} {d : DriveFrame}
    (hf : s.links[k].rx = some f) (hm : f.mode = .received) (hd : examineFrame f = some d) :
    frameEnd k s = { s with
      now := max s.now (f.lastAt + 2 * charTime s.links[k].line)
      links := s.links.set k { s.links[k] with rx := none, queue := s.links[k].queue ++ [d] } } := by
  simp only [frameEnd, hf, hm, hd]
  rfl

theorem frameEnd_bad {s : State} {k : StationId} {f : RxFrame}
    (hf : s.links[k].rx = some f) (hm : f.mode = .received) (hd : examineFrame f = none) :
    frameEnd k s = State.countLinkError { s with
      now := max s.now (f.lastAt + 2 * charTime s.links[k].line)
      links := s.links.set k { s.links[k] with rx := none } } k := by
  simp only [frameEnd, hf, hm, hd]
  rfl

/-- An overrun, and a frame dropped by a bus reset, are not examined (R106, R128). -/
theorem frameEnd_dropped {s : State} {k : StationId} {f : RxFrame}
    (hf : s.links[k].rx = some f) (hm : f.mode ≠ .received) :
    frameEnd k s = { s with
      now := max s.now (f.lastAt + 2 * charTime s.links[k].line)
      links := s.links.set k { s.links[k] with rx := none } } := by
  simp only [frameEnd, hf]
  split
  · next hr => exact absurd hr hm
  · rfl
  · rfl

/-! ### The statement -/

/-- A row whose effect does not show in the status records marks none. -/
theorem goOn_unshown {s t : State} {f : State → State} (hp : s.porst = false) (hf : f s = t)
    (ht : report s t = t) : goOn (s.act f) = .next t := by
  rw [act_running hp, hf, ht]
  rfl

/-- The same of a row that counts something on the station: it reports what the records then show. -/
theorem endsIn_act {i : Instr} {s v : State} {f : State → State} (hrow : exec i s = goOn (s.act f))
    (hp : s.porst = false) (hf : f s = v) (hw : v.writer = s.writer) : EndsIn i s v s.writer.owed [] := by
  refine endsIn_same (hrow.trans ?_) hw
  rw [act_running hp, hf]
  rfl

/-- Settles O46: a character by whether the line waits for mark, a frame is being received and the queue
has room; the frame's end by its mode and tests; ACCEPT. -/
theorem charactersMakeFrames : Obligations.CharactersMakeFrames := by
  refine ⟨fun s k c hp => ?_, fun s k f hp hf => ?_, fun s k => decide_eq_true_iff⟩
  · intro l set byte framing parity lastStop becomes
    have htaints : l.charTaints c = (framing || parity) := by
      rw [Link.charTaints, framingError_eq, parityError_eq]
      rfl
    have htaken : ∀ g, { s with links := s.links.set k (l.charTaken c g) } = becomes g := fun g => by
      rw [Link.charTaken, lastStopSpace_eq]
      rfl
    refine ⟨fun hw => goOn_unchanged (characterComplete_waiting c hw), fun hw f hf => ?_, fun hw hf hq => ?_,
      fun hw hf hq => ?_, ?_⟩
    · refine goOn_unshown hp ((characterComplete_next c hw hf).trans ?_)
        (report_of_shown rfl rfl rfl rfl rfl rfl rfl rfl)
      rw [htaken, htaints, RxFrame.next, ← Bool.or_assoc]
      rfl
    · refine goOn_unshown hp ((characterComplete_first c hw hf hq).trans ?_)
        (report_of_shown rfl rfl rfl rfl rfl rfl rfl rfl)
      rw [htaken, htaints]
      rfl
    · refine endsIn_act rfl hp ((characterComplete_overrun c hw hf hq).trans ?_) rfl
      rw [htaken]
      rfl
    · exact goOn_unshown hp rfl (report_of_shown rfl rfl rfl rfl rfl rfl rfl rfl)
  · intro l now cleared sums queued
    have hqueued : f.mode = .received → sums → ∀ d, frameOf f.kept = some d → queued d :=
      fun hm hs d hd => goOn_unshown hp (frameEnd_queued hf hm ((examineFrame_sums hs).trans hd))
        (report_of_shown rfl rfl rfl rfl rfl rfl rfl rfl)
    refine ⟨fun hm hs => ⟨fun a b c hk => ?_, fun a b c hk => ?_, fun a b r c hk => ?_, fun e c hk => ?_⟩,
      fun hm hbad => ?_, fun hm => ?_⟩
    · exact hqueued hm hs _ (by rw [hk]; rfl)
    · exact hqueued hm hs _ (by rw [hk]; rfl)
    · exact hqueued hm hs _ (by rw [hk]; rfl)
    · exact hqueued hm hs _ (by rw [hk]; rfl)
    · exact endsIn_act rfl hp (frameEnd_bad hf hm (examineFrame_bad hbad)) rfl
    · exact goOn_unshown hp (frameEnd_dropped hf hm) (report_of_shown rfl rfl rfl rfl rfl rfl rfl rfl)

end Sys2Proof.Machine
end

section
/-! The end of a frame in transmission (R103, R108, R110, R115, R119, R128). -/

namespace Sys2Proof.Machine

/-- The frame's last stop bit has passed and the wire is free, link k having become `f` (R103, R108). -/
def State.transmitted (s : State) (k : StationId) (t : Tx) (f : Link) : State :=
  { s with now := max s.now (txEnd s.links[k] t), links := s.links.set k f }

/-- The link as the frame's end leaves it, before the frame's own effect (R108). -/
def Link.wireFreed (l : Link) (now : Nat) : Link := { l with tx := none, gapFrom := now }

/-- The link with the work of a bus reset ended, where the frame and any HALT have been sent (R128). -/
def Link.workEnded (l : Link) (set : LineSettings) : Link :=
  if l.resetWork = true ∧ ∀ h, l.slot ≠ .halt h then { l with resetWork := false, line := set } else l

theorem endResetWork_setLink (s : State) (k : StationId) (f : Link) :
    endResetWork k (s.setLink k f) = s.setLink k (f.workEnded (cbLine s.shadows.stations[k])) := by
  have hwork : (f.resetWork && !haltPending f) = true ↔ f.resetWork = true ∧ ∀ h, f.slot ≠ .halt h := by
    rw [Bool.and_eq_true, Bool.not_eq_true', ← Bool.not_eq_true, haltPending_iff, not_exists]
  unfold endResetWork Link.workEnded
  rw [setLink_get]
  by_cases h : f.resetWork = true ∧ ∀ h, f.slot ≠ .halt h
  · rw [if_pos (hwork.mpr h), if_pos h]
    simp only [State.setLink, vector_set_set]
  · rw [if_neg fun hb => h (hwork.mp hb), if_neg h]

/-- A frame's end is its effect on the freed wire, and then the end of a bus reset's work. -/
theorem frameTransmitEnd_eq {s : State} {k : StationId} {t : Tx} {f : Link} (ht : s.links[k].tx = some t)
    (hf : frameEffect k t.kind
        (s.transmitted k t (s.links[k].wireFreed (max s.now (txEnd s.links[k] t)))) =
      s.transmitted k t f) :
    frameTransmitEnd k s = s.transmitted k t (f.workEnded (cbLine s.shadows.stations[k])) := by
  unfold frameTransmitEnd
  rw [ht]
  exact (congrArg (endResetWork k) hf).trans (endResetWork_setLink (s.reach (txEnd s.links[k] t)) k f)

/-! ### What each kind of frame does as it ends -/

section
variable (s : State) (k : StationId) (t : Tx) (l : Link)

theorem transmitted_get : (s.transmitted k t l).links[k] = l := get_set_self _ _ _

theorem transmitted_setLink (f : Link) : (s.transmitted k t l).setLink k f = s.transmitted k t f := by
  unfold State.transmitted State.setLink
  simp only [vector_set_set]

/-- The timer that is started as a SEG ends (R116). -/
def State.segTimer : AckTimer :=
  ⟨max s.now (txEnd s.links[k] t), max 1 (fieldOf s.shadows.stations[k][14] 8 8) * 48000⟩

theorem frameEffect_halt : frameEffect k .halt (s.transmitted k t l) =
    s.transmitted k t { l with slot := .empty } := by
  unfold frameEffect
  dsimp only
  rw [transmitted_get, transmitted_setLink]

/-- A first sending becomes outstanding (R115). -/
theorem frameEffect_seg {q : Seq} (hd : s.stations[k].drive = .running) (hq : s.stations[k].send = q) :
    frameEffect k (.seg q false) (s.transmitted k t l) = s.transmitted k t { l with
      outstanding := some ⟨q, .waiting⟩, retry := 0, ackTimer := some (s.segTimer k t) } := by
  unfold frameEffect
  dsimp only
  rw [if_pos ⟨rfl, hd, hq⟩, transmitted_get, transmitted_setLink]
  rfl

/-- A resend that is still outstanding goes back to WAITING (R119). -/
theorem frameEffect_resend {q : Seq} (ho : l.outstanding = some ⟨q, .onWire⟩) :
    frameEffect k (.resend q false) (s.transmitted k t l) = s.transmitted k t { l with
      outstanding := some ⟨q, .waiting⟩, ackTimer := some (s.segTimer k t) } := by
  unfold frameEffect
  dsimp only
  rw [transmitted_get, if_pos ⟨rfl, ho⟩, transmitted_setLink]
  rfl

/-- A SEG that is void, or has stopped being what the station sends, ends without effect (R115). -/
theorem frameEffect_seg_stays {q : Seq} {void : Bool}
    (h : void = true ∨ s.stations[k].drive ≠ .running ∨ s.stations[k].send ≠ q) :
    frameEffect k (.seg q void) (s.transmitted k t l) = s.transmitted k t l := by
  refine if_neg fun ⟨hv, hd, hq⟩ => ?_
  rcases h with h | h | h
  · exact Bool.false_ne_true (hv.symm.trans h)
  · exact h hd
  · exact h hq

theorem frameEffect_resend_stays {q : Seq} {void : Bool}
    (h : void = true ∨ l.outstanding ≠ some ⟨q, .onWire⟩) :
    frameEffect k (.resend q void) (s.transmitted k t l) = s.transmitted k t l := by
  unfold frameEffect
  dsimp only
  rw [transmitted_get]
  refine if_neg fun ⟨hv, ho⟩ => ?_
  exact h.elim (fun h => Bool.false_ne_true (hv.symm.trans h)) fun h => h ho

end

/-- Settles O52: the row by the kind of frame, and for a SEG by whether it is void and still the one that the
station sends or waits for. -/
theorem frameTransmitEnds : Obligations.FrameTransmitEnds := by
  intro s k t hp ht st l now free timer becomes
  have hends : ∀ f : Link, f.resetWork = l.resetWork →
      frameEffect k t.kind (s.transmitted k t free) = s.transmitted k t f → becomes f := fun f hw hf => by
    refine goOn_unshown hp ((frameTransmitEnd_eq ht hf).trans ?_)
      (report_of_shown rfl rfl rfl rfl rfl rfl rfl rfl)
    rw [Link.workEnded, hw]
    rfl
  refine ⟨fun hk => hends _ rfl ?_, fun hk => hends _ rfl ?_, fun q hk hd hq => hends _ rfl ?_,
    fun q hk ho => hends _ rfl ?_, fun q hk hno => hends _ rfl ?_, fun q hk hno => hends _ rfl ?_,
    fun q hk => hends _ rfl ?_⟩
  · rw [hk, frameEffect_halt]
  · rw [hk]
    rfl
  · rw [hk, frameEffect_seg s k t free hd hq]
    rfl
  · rw [hk, frameEffect_resend s k t free ho]
    rfl
  · rw [hk, frameEffect_seg_stays s k t free (.inr hno)]
  · rw [hk, frameEffect_resend_stays s k t free (.inr hno)]
  · rcases hk with hk | hk
    · rw [hk, frameEffect_seg_stays s k t free (.inl rfl)]
    · rw [hk, frameEffect_resend_stays s k t free (.inl rfl)]

end Sys2Proof.Machine
end

section
/-! The answer to a drain read: what it stages, spoils or discards (R111 to R113, R169). -/

namespace Sys2Proof.Machine

/-! ### The staging buffer at the answer -/

/-- A link that stages something waits with the next drain read (R111). -/
theorem Link.drained_staged {l : Link} (h : l.staging ≠ .empty) (st : Station) : l.drained st = l :=
  if_neg fun ⟨_, _, hempty, _⟩ => h hempty

/-- The staging buffer is left spoiled while send still equals the sequence read (R112). -/
def spoiledFor (q : Seq) (st : Station) (l : Link) : Link :=
  if st.send = q then { l with staging := .spoiled q } else l

theorem spoil_weigh (s : State) (k : StationId) (q : Seq) : (spoil k q s).weighDrain k =
    { s with links := s.links.set k ((spoiledFor q s.stations[k] s.links[k]).drained s.stations[k]) } := by
  have hspoil : spoil k q s = s.setLink k (spoiledFor q s.stations[k] s.links[k]) := by
    unfold spoil spoiledFor State.setLink
    split
    · rfl
    · rw [vector_set_get]
  rw [hspoil, weighDrain_eq]
  simp only [State.setLink, get_set_self, vector_set_set]

/-- An entry into FAULT whose drain read has failed, with the staging condition weighed (R56, R111, R112). -/
theorem enterFault_spoil (s : State) (k : StationId) (c : FaultCode) (h : Option Byte) (q : Seq) :
    (spoil k q ((s.enterDrive k (.fault c) h).oweEvent k)).weighDrain k =
      let f : Station := { s.stations[k] with drive := .fault c, send := s.stations[k].done }
      (s.moved k f (spoiledFor q f (s.links[k].rewind.placeHalt h))).oweEvent k := by
  rw [spoil_weigh, enterDrive_eq]
  simp only [State.oweEvent, State.owe, State.setWriter, State.moved, get_set_self, vector_set_set]

/-- A drain read's fault as the statements have it: the drive is asked to enter FAULT, the staging buffer
is spoiled, and the staging condition weighed (R111, R112). -/
theorem requestFault_spoil (s : State) (k : StationId) (c : FaultCode) (q : Seq) :
    (spoil k q (s.requestFault k c)).weighDrain k =
      (s.faultedWith k c (faultHalt c) (spoiledFor q)).owe (.station k)
        (faultEvent s.stations[k] k) := by
  unfold State.requestFault State.faultedWith faultEvent
  cases hd : s.stations[k].drive with
  | running =>
    simp only [hd]
    exact enterFault_spoil ..
  | held r =>
    simp only [hd]
    exact enterFault_spoil ..
  | stopped =>
    simp only [hd]
    rw [owe_zero, spoil_weigh]
  | fault f =>
    simp only [hd]
    rw [owe_zero, spoil_weigh]

/-! ### The row -/

section
variable {s : State} {k : StationId} {m : MemTxn} {d : DrainRead}
  (hport : s.port.inFlight = some ⟨.drain k, m⟩) (hdrain : s.links[k].drain = some d)
include hport hdrain

/-- A marked read is discarded, whatever its answer (R113). -/
theorem drainReadAnswer_marked (hm : d.marked = true) (ans : ReadAnswer 8) :
    drainReadAnswer ans s = (endDrain k s).weighDrain k := by
  unfold drainReadAnswer
  rw [hport]
  dsimp only
  rw [hdrain]
  exact if_pos hm

theorem drainReadAnswer_outcome (hm : d.marked = false) (ans : ReadAnswer 8) :
    drainReadAnswer ans s = (drainOutcome k d ans (endDrain k s)).weighDrain k := by
  unfold drainReadAnswer
  rw [hport]
  dsimp only
  rw [hdrain]
  exact if_neg (by rw [hm]; exact nofun)

end

/-- The port freed, and link k as a drain read's answer leaves it (R112, R180). -/
def State.drainEnded (s : State) (k : StationId) (l : Link) : State :=
  { s.freed with links := s.links.set k l }

theorem drainEnded_get (s : State) (k : StationId) (l : Link) : (s.drainEnded k l).links[k] = l :=
  get_set_self _ _ _

theorem drainEnded_weigh (s : State) (k : StationId) (l : Link) :
    (s.drainEnded k l).weighDrain k = s.drainEnded k (l.drained s.stations[k]) := by
  rw [weighDrain_eq, drainEnded_get]
  unfold State.drainEnded
  simp only [vector_set_set]
  rfl

theorem report_drainEnded (s : State) (k : StationId) (l : Link) :
    report s (s.drainEnded k l) = s.drainEnded k l := report_of_shown rfl rfl rfl rfl rfl rfl rfl rfl

/-! ### What an unmarked read's answer does (R112) -/

section
variable {s : State} {k : StationId} {d : DrainRead} {l : Link} {rec : Vector Word 8}

/-- A record that matches is staged, and no further read is due. -/
theorem drainOutcome_staged (hc : checkCorrect rec = true) (hq : recSeq rec = d.seq) :
    (drainOutcome k d (.ok rec) (s.drainEnded k l)).weighDrain k =
      s.drainEnded k { l with staging := .copy d.seq rec } := by
  have hstaged : drainOutcome k d (.ok rec) (s.drainEnded k l) =
      s.drainEnded k { l with staging := .copy d.seq rec } := by
    unfold drainOutcome
    dsimp only
    rw [if_pos ((recMatches_iff rec d.seq).mpr ⟨hc, hq⟩), drainEnded_get]
    unfold State.drainEnded State.setLink
    simp only [vector_set_set]
  rw [hstaged, drainEnded_weigh, Link.drained_staged (by exact nofun)]

/-- What is logged and reported before a drive enters FAULT stands after it. -/
theorem faultedWith_logged (s : State) (k : StationId) (c : FaultCode) (h : Option Byte)
    (after : Station → Link → Link) (log : Option LogEntry) (w : Writer) :
    State.faultedWith { s with log := log, writer := w } k c h after =
      { s.faultedWith k c h after with log := log, writer := w } := by
  unfold State.faultedWith
  cases hd : s.stations[k].drive <;> simp only [hd] <;> rfl

/-- Another record takes the drive to FAULT with code RING_CHECK. -/
theorem drainOutcome_mismatch (h : ¬(checkCorrect rec = true ∧ recSeq rec = d.seq)) :
    (drainOutcome k d (.ok rec) (s.drainEnded k l)).weighDrain k =
      ((s.drainEnded k l).faultedWith k .ringCheck (some 22#8) (spoiledFor d.seq)).owe (.station k)
        (faultEvent s.stations[k] k) := by
  unfold drainOutcome
  dsimp only
  rw [if_neg fun hm => h ((recMatches_iff rec d.seq).mp hm), requestFault_spoil]
  rfl

/-- FAULT is logged, and takes the drive to FAULT with code MEMORY. -/
theorem drainOutcome_fault : (drainOutcome k d .fault (s.drainEnded k l)).weighDrain k =
    State.owe { (s.drainEnded k l).faultedWith k .memory (some 21#8) (spoiledFor d.seq) with
      log := loggedWith s.log ⟨.memFault, .drain, false, d.addr, 0#32, some k, 0#8⟩
      writer := s.writer.logged s.log } (.station k) (faultEvent s.stations[k] k) := by
  unfold drainOutcome
  dsimp only
  rw [requestFault_spoil, logError_eq]
  exact congrArg (State.owe · _ _) (faultedWith_logged ..)

end

/-- An outcome that owes bits to one record and changes the writer no further. -/
theorem reports_owed {s v : State} (r : RecordId) (bits : Word) (hw : v.writer = s.writer) :
    Reports s v (s.writer.owed.plus r bits) [] (report s (v.owe r bits)) := by
  have howe : (v.owe r bits).writer = { s.writer with owed := s.writer.owed.plus r bits } := by
    rw [← hw]
    rfl
  exact reports_of rfl (by rw [howe]) (by rw [howe]) (by rw [howe]) (by rw [howe])
    (fun q hq => by rw [howe]; exact hq) nofun

/-- Settles O45: the marked read, the record that matches, the one that does not, and FAULT. -/
theorem drainReadAnswered : Obligations.DrainReadAnswered := by
  intro s k m d ans rec hp hport hdrain st l ended spoils
  have hgives : ∀ a, AnswerGives .drainReadAnswer a s (report s (drainReadAnswer a s)) :=
    fun _ => answerGives_of (fun _ => rfl) hp
  have hends : ∀ {a t}, drainReadAnswer a s = s.drainEnded k t →
      AnswerGives .drainReadAnswer a s (s.drainEnded k t) := fun {a t} ht => by
    have hans := hgives a
    rwa [ht, report_drainEnded] at hans
  have hout : d.marked = false → ∀ a, drainReadAnswer a s =
      (drainOutcome k d a (s.drainEnded k l)).weighDrain k :=
    fun hm a => drainReadAnswer_outcome hport hdrain hm a
  refine ⟨fun hm => hends ?_, fun hm hc hq => hends ?_, fun hm hbad => ⟨_, hgives _, ?_⟩,
    fun hm => ⟨_, hgives _, ?_⟩⟩
  · exact (drainReadAnswer_marked hport hdrain hm ans).trans (drainEnded_weigh s k l)
  · exact (hout hm _).trans (drainOutcome_staged hc hq)
  · rw [hout hm, drainOutcome_mismatch hbad]
    exact reports_owed _ _ (faultedWith_writer ..)
  · rw [hout hm, drainOutcome_fault]
    refine reports_of rfl rfl rfl rfl rfl (fun r hr => Marks.get_set_kept _ _ _ hr) fun r hr => .inl ?_
    rw [List.mem_singleton.mp hr]
    exact Marks.get_set_self s.writer.marks .errorLog true

end Sys2Proof.Machine
end

section
/-! A write of word 14 of a station's block: the filter time, the polarity and the ack timeout at once
(R116, R130, R131, R142). -/

namespace Sys2Proof.Machine

/-! ### A change that qualifies (R129, R130) -/

@[simp] theorem breakQualifies_breaks (s : State) (k : StationId) :
    (s.breakQualifies k).breaks = s.breaks.set k s.breaks[k].qualify := by
  unfold State.breakQualifies State.breakEdge
  dsimp only
  split
  · rw [weighDrain_eq]
    simp
  · simp

/-- A change that has qualified leaves no timer running. -/
theorem breakQualifies_timer (s : State) (k : StationId) : (s.breakQualifies k).breaks[k].timer = none := by
  have hmonitor : (s.breakQualifies k).breaks[k] = s.breaks[k].qualify := by
    simp only [breakQualifies_breaks]
    exact get_set_self _ _ _
  rw [hmonitor]
  rfl

theorem breakDue_reached {s : State} {k : StationId} {c : Nat} (hc : s.breaks[k].timer = some c)
    (h : c + cbFilterTime s.shadows.stations[k] ≤ s.now) : s.breakDue k = s.breakQualifies k := by
  unfold State.breakDue
  rw [hc]
  exact if_pos h

theorem breakDue_waits {s : State} {k : StationId}
    (h : ∀ c, s.breaks[k].timer = some c → s.now < c + cbFilterTime s.shadows.stations[k]) :
    s.breakDue k = s := by
  unfold State.breakDue
  split
  · next c hc => exact if_neg (Nat.not_le.mpr (h c hc))
  · rfl

/-! ### The word itself -/

/-- Word 14 in the shadow, and a running ack timer started again with the timeout it names (R116). -/
def State.word14Written (s : State) (k : StationId) (w : Word) : State :=
  { s with
    shadows := { s.shadows with
      stations := s.shadows.stations.set k (s.shadows.stations[k].set 14 w) }
    links := s.links.set k { s.links[k] with
      ackTimer := s.links[k].ackTimer.map fun _ => ⟨s.now, max 1 (fieldOf w 8 8) * 48000⟩ } }

theorem word14Written_get (s : State) (k : StationId) (w : Word) :
    (s.word14Written k w).shadows.stations[k][14] = w := by
  unfold State.word14Written
  dsimp only
  rw [get_set_self]
  exact Vector.getElem_set_self _

theorem word14Written_eq (s : State) (k : StationId) (w : Word) :
    restartAckTimer k (setStationShadow s k 14 w) = s.word14Written k w := by
  have htimeout : cbAckTimeout (setStationShadow s k 14 w).shadows.stations[k] =
      max 1 (fieldOf w 8 8) * 48000 :=
    congrArg (fun v => max 1 (fieldOf v 8 8) * 48000) (word14Written_get s k w)
  unfold restartAckTimer State.word14Written
  rw [htimeout, show (setStationShadow s k 14 w).links[k] = s.links[k] from rfl]
  cases hrun : s.links[k].ackTimer with
  | some timer => rfl
  | none =>
    have hlink : { s.links[k] with ackTimer := none } = s.links[k] := by rw [← hrun]
    rw [Option.map_none, hlink, vector_set_get]
    rfl

/-- The filter time that the word names (R129, log 3). -/
theorem word14Written_filter (s : State) (k : StationId) (w : Word) :
    cbFilterTime (s.word14Written k w).shadows.stations[k] = fieldOf w 0 4 * 3072 :=
  congrArg (fun v => fieldOf v 0 4 * 3072) (word14Written_get s k w)

theorem applyStationWord_word14 (s : State) (k : StationId) (w : Word) :
    applyStationWord k 14 w s = ((s.breakDue k).word14Written k w).breakDue k :=
  congrArg (State.breakDue · k) (word14Written_eq (s.breakDue k) k w)

/-- A taken write of word 14, whichever of its three rows presents it (R142, log 8). -/
theorem exec_word14 {s : State} {r : Regions} {k : StationId} {w : Word} {i : Instr}
    (hp : PortTakes s r)
    (hi : i = .breakFilterTimeWrite k w ∨ i = .breakPolarityWrite k w ∨ i = .ackTimeoutWrite k w) :
    exec i s = .next (report s ((((s.breakDue k).word14Written k w).breakDue k).forwardsPage
      (writeUpTo s (stationBlockOffset k 14) [] w))) := by
  have hrow : exec i s = exec (.controlBlockWrite (writeUpTo s (stationBlockOffset k 14) [] w)) s := by
    rcases hi with rfl | rfl | rfl <;> rfl
  have hk := k.isLt
  have hword : applyWord w s (pageWord (stationBlockOffset k 14)) =
      ((s.breakDue k).word14Written k w).breakDue k := by
    rw [show stationBlockOffset k 14 = stationBlockOffset k (14 : Fin 16).val from rfl, pageWord_station]
    exact applyStationWord_word14 s k w
  exact hrow.trans (exec_pageWordTaken hp (by unfold stationBlockOffset; omega)
    (by unfold stationBlockOffset; omega)
    (stationDecision_taken (n := 14) w (fun h => absurd h (by decide)) (fun h => absurd h (by decide))) hword)

/-- Settles O25: a change due before the write qualifies first, one that the new filter time makes due
qualifies after it, and another goes on. -/
theorem filterPolarityTimeoutWritten : Obligations.FilterPolarityTimeoutWritten := by
  intro s r k w i hp hi before filter wrote t
  have hexec := exec_word14 hp hi
  refine ⟨fun c hc hdue => ?_, fun c hc hnot hdue => ?_, fun hnot => ?_⟩
  · have hdone : ((s.breakQualifies k).word14Written k w).breakDue k =
        (s.breakQualifies k).word14Written k w :=
      breakDue_waits fun c hc => nomatch (breakQualifies_timer s k).symm.trans hc
    rw [hexec, breakDue_reached hc hdue, hdone]
    rfl
  · have hfirst : s.breakDue k = s :=
      breakDue_waits fun d hd => by
        obtain rfl := Option.some.inj (hc.symm.trans hd)
        exact hnot
    have hthen : (s.word14Written k w).breakDue k = (s.word14Written k w).breakQualifies k :=
      breakDue_reached hc (by rw [word14Written_filter]; exact hdue)
    rw [hexec, hfirst, hthen]
    rfl
  · have hfirst : s.breakDue k = s := breakDue_waits fun c hc => (hnot c hc).1
    have hthen : (s.word14Written k w).breakDue k = s.word14Written k w :=
      breakDue_waits fun c hc => by
        rw [word14Written_filter]
        exact (hnot c hc).2
    rw [hexec, hfirst, hthen]
    exact congrArg Host.Outcome.next (report_of_shown rfl rfl rfl rfl rfl rfl rfl rfl)

end Sys2Proof.Machine
end

section
/-! The assertion of BUSRST_N (R128, R182, R188), and the answers that an abandoned transaction still gets
(R180). -/

namespace Sys2Proof.Machine

/-! ### The control-frame slot (R188) -/

theorem busResetSlot_halt {st : Station} {l : Link} {r : Byte} (h : l.slot = .halt r) :
    busResetSlot st l = .halt r := by
  unfold busResetSlot
  rw [h]

/-- An unbegun GO is withdrawn, and nothing is owed for it. -/
theorem busResetSlot_go {st : Station} {l : Link} (h : l.slot = .go) : busResetSlot st l = .empty := by
  unfold busResetSlot
  rw [h]

/-- With an empty slot a HALT is owed to a drive that was RUNNING. -/
theorem busResetSlot_empty {st : Station} {l : Link} (h : l.slot = .empty) :
    busResetSlot st l = if st.drive = .running then .halt 0x20#8 else .empty := by
  unfold busResetSlot
  rw [h]

/-! ### The link's transmit work (R128) -/

/-- The work that a bus reset leaves the link: a frame in transmission, or a HALT in the slot. -/
theorem busResetLink_work (now : Nat) (st : Station) (l : Link) :
    (busResetLink now st l).resetWork = true ↔
      (busResetLink now st l).tx ≠ none ∨ (busResetLink now st l).slot ≠ .empty := by
  show (l.tx.isSome || busResetSlot st l != .empty) = true ↔
    l.tx.map Tx.void ≠ none ∨ busResetSlot st l ≠ .empty
  rw [Bool.or_eq_true, bne_iff_ne, Option.isSome_iff_ne_none]
  exact or_congr_left (not_congr Option.map_eq_none_iff.symm)

/-- The line settings go on for as long as that work. -/
theorem busResetLink_line (now : Nat) (st : Station) (l : Link) : (busResetLink now st l).line =
    if (busResetLink now st l).resetWork = true then l.line else LineSettings.reset := rfl

/-- A frame being received is dropped as its end comes (log 14). -/
theorem busResetRx_dropped {rx : Option RxFrame} {f : RxFrame} (h : busResetRx rx = some f) :
    f.mode = .dropped := by
  cases rx with
  | none => exact nomatch h
  | some g => exact (Option.some.inj h) ▸ rfl

/-! ### The row -/

theorem exec_busReset {s : State} (hp : s.porst = false) (hb : s.busrst = false) :
    exec .busReset s = .next (busResetValues s) := by
  show Host.Outcome.next (busReset s) = _
  unfold busReset
  rw [if_neg (by rw [hb]; exact nofun), if_neg (by rw [hp]; exact nofun)]

theorem busReset_link (s : State) (k : StationId) :
    (busResetValues s).links[k] = busResetLink s.now s.stations[k] s.links[k] := mapLinks_get ..

/-- Settles O13: the blocks' values, each link's, and the twelve answer rows. -/
theorem StartUp.busResetValues : Obligations.BusResetValues := by
  refine ⟨fun s hp hb => ⟨_, exec_busReset hp hb, ?_⟩, fun s => ?_⟩
  · refine ⟨rfl, rfl, rfl, rfl, rfl, rfl, hp, rfl, rfl, rfl, rfl, rfl, rfl, rfl, rfl, rfl, rfl, fun k => ?_⟩
    rw [busReset_link]
    have hwork := busResetLink_work s.now s.stations[k] s.links[k]
    have hslot : (busResetLink s.now s.stations[k] s.links[k]).slot =
      busResetSlot s.stations[k] s.links[k] := rfl
    refine ⟨reset_station k, rfl, rfl, rfl, rfl, rfl, rfl, rfl, rfl, fun f => busResetRx_dropped, rfl, rfl,
      fun r hr => busResetSlot_halt hr, busResetSlot_go, fun he hd => ?_, fun he hd => ?_, hwork, rfl,
      fun h => ?_, fun h => ?_⟩
    · rw [hslot, busResetSlot_empty he, if_pos hd]
    · rw [hslot, busResetSlot_empty he, if_neg hd]
    · rw [busResetLink_line, if_pos (hwork.mpr (h.imp_left Option.isSome_iff_ne_none.mp))]
    · rw [busResetLink_line, if_neg fun h' => (hwork.mp h').elim (absurd h.1) (absurd h.2)]
  · exact ⟨rfl, rfl, rfl, rfl, rfl, rfl, rfl, rfl, rfl, rfl, rfl, rfl⟩

end Sys2Proof.Machine
end

section
/-! The assertion and the negation of PORST_N (R181, R183). -/

namespace Sys2Proof.Machine

theorem powerOnReset_link (s : State) (k : StationId) :
    (powerOnReset s).links[k] = poweredLink s.now s.links[k] := mapLinks_get ..

/-- The state that the negation of PORST_N leaves (R129, R134, R181, R183). -/
def State.started (s : State) (v : InputLevels) : State :=
  { s with
    porst := false
    breaks := firstLevels v.breaks
    stop := firstLevel v.stopHigh
    links := mapLinks s.links (fun _ l => { l with gapFrom := s.now })
    boot := { s.boot with
      state := .waiting, waitingSince := s.now, bus := v.bus, strapA := v.strapA, strapB := v.strapB } }

theorem exec_porstNegation {s : State} (v : InputLevels) (hp : s.porst = true) :
    exec (.porstNegation v) s = .next (s.started v) :=
  congrArg Host.Outcome.next (if_pos hp)

theorem started_link (s : State) (v : InputLevels) (k : StationId) :
    (s.started v).links[k] = { s.links[k] with gapFrom := s.now } := mapLinks_get ..

/-- Settles O12: the power-on values of each block, and the first levels that the negation takes. -/
theorem powerOnResetAndItsNegation : Obligations.PowerOnResetAndItsNegation := by
  refine ⟨fun s => ⟨powerOnReset s, rfl, rfl, rfl, rfl, rfl, rfl, rfl, rfl, rfl, fun k => ?_, rfl, rfl,
    rfl, rfl, rfl, rfl, rfl⟩, fun s v hp => ⟨s.started v, exec_porstNegation v hp, rfl, fun k => ?_, rfl,
    rfl, rfl⟩⟩
  · exact ⟨reset_station k, powerOnReset_link s k⟩
  · exact ⟨firstLevels_get v.breaks k, started_link s v k⟩

end Sys2Proof.Machine
end

section
/-! A report built up one operation at a time: what is marked and owed on the way to a command's outcome,
and the records that a monitor shows (R163). -/

namespace Sys2Proof.Machine

/-! ### Reports, operation by operation -/

theorem Reports.refl {s v : State} (hw : v.writer = s.writer) : Reports s v s.writer.owed [] v := by
  refine ⟨rfl, ?_, ?_, ?_, ?_, fun r hr => ?_, nofun⟩ <;> rw [hw]
  exact hr

section
variable {s v t : State} {owed : Owed} {marked : List RecordId}

theorem Reports.mark (h : Reports s v owed marked t) (r : RecordId) :
    Reports s v owed (r :: marked) (t.mark r) := by
  obtain ⟨hframe, howed, hpending, hwrite, hpos, hkept, hmarked⟩ := h
  refine ⟨congrArg (State.mark · r) hframe, howed, hpending, hwrite, hpos,
    fun q hq => Marks.get_set_kept _ _ _ (hkept q hq), fun q hq => ?_⟩
  rcases List.mem_cons.mp hq with rfl | hq
  · exact Marks.get_set_self t.writer.marks q true
  · exact Marks.get_set_kept _ _ _ (hmarked q hq)

theorem Reports.owe (h : Reports s v owed marked t) (r : RecordId) (bits : Word) :
    Reports s v (owed.plus r bits) marked (t.owe r bits) := by
  obtain ⟨hframe, rfl, hpending, hwrite, hpos, hkept, hmarked⟩ := h
  exact ⟨congrArg (State.owe · r bits) hframe, rfl, hpending, hwrite, hpos, hkept, hmarked⟩

/-- An operation that neither reads nor changes the writer reports nothing more. -/
theorem Reports.map (h : Reports s v owed marked t) (f : State → State)
    (hf : ∀ (x : State) (w : Writer), f (x.setWriter w) = (f x).setWriter w) :
    Reports s (f v) owed marked (f t) := by
  obtain ⟨hframe, howed, hpending, hwrite, hpos, hkept, hmarked⟩ := h
  have hnext : f t = (f v).setWriter t.writer := (congrArg f hframe).trans (hf v t.writer)
  have hwriter : (f t).writer = t.writer := by rw [hnext]; rfl
  unfold Reports
  rw [hwriter]
  exact ⟨hnext, howed, hpending, hwrite, hpos, hkept, hmarked⟩

/-- The marks of the records that changed come on top (log 19). -/
theorem Reports.reported (h : Reports s v owed marked t) : Reports s v owed marked (report s t) := by
  obtain ⟨hframe, howed, hpending, hwrite, hpos, hkept, hmarked⟩ := h
  exact reports_of hframe howed hpending hwrite hpos hkept fun r hr => .inl (hmarked r hr)

theorem Reports.fewer (h : Reports s v owed marked t) {sub : List RecordId} (hsub : sub ⊆ marked) :
    Reports s v owed sub t := by
  obtain ⟨hframe, howed, hpending, hwrite, hpos, hkept, hmarked⟩ := h
  exact ⟨hframe, howed, hpending, hwrite, hpos, hkept, fun r hr => hmarked r (hsub hr)⟩

end

/-! ### A drive asked to enter HELD -/

theorem heldBy_setWriter (k : StationId) (r : HoldReason) (s : State) (w : Writer) :
    (s.setWriter w).heldBy k r = (s.heldBy k r).setWriter w := by
  unfold State.heldBy
  dsimp only [setWriter_stations]
  split <;> rfl

theorem heldBy_oweEvent (s : State) (k : StationId) (r : HoldReason) :
    (s.oweEvent k).heldBy k r = (s.heldBy k r).oweEvent k := by
  unfold State.oweEvent State.owe
  rw [heldBy_setWriter, heldBy_writer]

/-- The event bit that an entry owes is owed once, where it is owed already (R72). -/
theorem requestHeld_alreadyOwed (s : State) (k : StationId) (r : HoldReason) :
    ((s.oweEvent k).requestHeld k r).weighDrain k = (s.oweEvent k).heldBy k r := by
  have htwice : (s.oweEvent k).oweEvent k = s.oweEvent k := by
    show s.setWriter { s.writer with
      owed := (s.writer.owed.plus (.station k) (eventBit k)).plus (.station k) (eventBit k) } = _
    rw [Owed.plus_plus, BitVec.or_self]
    rfl
  rw [requestHeld_weigh, ← heldBy_oweEvent, htwice, ite_self]

/-! ### What the records show of a monitor -/

/-- A monitor shows its qualified level alone (Table 12-8). -/
theorem stationStatusLower_qualified (st : Station) {a b : Monitor} (h : a.qualified = b.qualified) :
    stationStatusLower st a = stationStatusLower st b := by
  unfold stationStatusLower
  rw [h]

theorem recordChanged_of_same {s t : State} {r : RecordId} (hl : recordLower s r = recordLower t r)
    (hu : recordUpper s r = recordUpper t r) : recordChanged s t r = false := by
  unfold recordChanged
  rw [hl, hu, bne_self_eq_false, bne_self_eq_false]
  rfl

theorem report_setBreak {s : State} {k : StationId} {m : Monitor}
    (h : m.qualified = s.breaks[k].qualified) : report s (s.setBreak k m) = s.setBreak k m := by
  refine report_same _ _ fun r => recordChanged_of_same ?_ (by cases r <;> rfl)
  cases r with
  | station j =>
    show stationStatusLower s.stations[j] s.breaks[j] = stationStatusLower s.stations[j] (s.breaks.set k m)[j]
    by_cases hj : j = k
    · subst hj
      rw [get_set_self]
      exact stationStatusLower_qualified _ h.symm
    · rw [get_set_ne _ _ _ _ hj]
  | summary => rfl
  | errorLog => rfl
  | job => rfl

/-- The job's record shows the stop line's qualified level alone (Table 12-7). -/
theorem report_setStop {s : State} {m : Monitor} (h : m.qualified = s.stop.qualified) :
    report s { s with stop := m } = { s with stop := m } := by
  refine report_same _ _ fun r => recordChanged_of_same ?_ (by cases r <;> rfl)
  cases r with
  | job =>
    unfold recordLower jobStatusLower
    dsimp only
    rw [h]
  | summary => rfl
  | errorLog => rfl
  | station j => rfl

/-- A raw level, as one update of the monitor (R129). -/
theorem Monitor.sense_eq (m : Monitor) (level : Bool) (now : Nat) : m.sense level now =
    ⟨level, m.qualified, if level = m.qualified then none else some (m.timer.getD now)⟩ := by
  unfold Monitor.sense
  split <;> rfl

end Sys2Proof.Machine
end

section
/-! A break line: its changes, their qualification, and the break edge (R129 to R132, R137). -/

namespace Sys2Proof.Machine

/-! ### Polarity (R131) -/

theorem isBreakEdge_iff (p : Polarity) (level : Bool) : isBreakEdge p level = true ↔ EdgeUnder p level := by
  cases p <;> simp [isBreakEdge, EdgeUnder]

theorem cbPolarity_eq (b : Block) : cbPolarity b =
    if fieldOf b[14] 4 2 = 0 then .rising else if fieldOf b[14] 4 2 = 1 then .falling else .both := by
  unfold cbPolarity
  split
  · next h => rw [if_pos h]
  · next h => rw [if_neg (by omega), if_pos h]
  · next h0 h1 => rw [if_neg h0, if_neg h1]

/-! ### A qualified change (R131, R132, R137) -/

/-- The stations with a break edge counted on station k (R132). -/
def breakCounted (s : State) (k : StationId) : Vector Station 6 :=
  let o := s.stations[k].counters
  s.stations.set k { s.stations[k] with counters := { o with breaks := satInc o.breaks } }

/-- From `s` to `t` a change of break line k to `level` has qualified, which takes the block to `b` but for
what the break edge does, where it is one. -/
def BreakQualified (s b : State) (k : StationId) (level : Bool) (t : State) : Prop :=
  (EdgeUnder (cbPolarity s.shadows.stations[k]) level → Reports s
    (State.heldBy { b with stations := breakCounted s k } k .breakLine)
    (s.writer.owed.plus (.station k) (eventBit k)) [.station k] t)
  ∧ (¬EdgeUnder (cbPolarity s.shadows.stations[k]) level → Reports s b s.writer.owed [.station k] t)

theorem breakQualifies_qualified (s : State) (k : StationId) :
    BreakQualified s { s with breaks := s.breaks.set k ⟨s.breaks[k].raw, s.breaks[k].raw, none⟩ } k
      s.breaks[k].raw (s.breakQualifies k) := by
  have hchange := (Reports.refl (s := s) (v := s.setBreak k s.breaks[k].qualify) rfl).mark (.station k)
  unfold State.breakQualifies
  refine ⟨fun hedge => ?_, fun hno => ?_⟩
  · have hcounted := (hchange.map (State.countBreak · k) fun _ _ => rfl).mark (.station k)
    have hheld := (hcounted.owe (.station k) (eventBit k)).map (State.heldBy · k .breakLine)
      (heldBy_setWriter k .breakLine)
    rw [if_pos ((isBreakEdge_iff _ _).mpr hedge)]
    unfold State.breakEdge
    rw [requestHeld_alreadyOwed]
    exact hheld.fewer (List.subset_cons_self ..)
  · rw [if_neg fun h => hno ((isBreakEdge_iff _ _).mp h)]
    exact hchange

theorem heldBy_setBreak (s : State) (k j : StationId) (r : HoldReason) (m : Monitor) :
    (s.setBreak j m).heldBy k r = (s.heldBy k r).setBreak j m := by
  unfold State.heldBy
  dsimp only [setBreak_stations]
  split <;> rfl

/-- The line may change again after its change has qualified. -/
theorem BreakQualified.setBreak {s b t : State} {k : StationId} {level : Bool}
    (h : BreakQualified s b k level t) (m : Monitor) :
    BreakQualified s (b.setBreak k m) k level (t.setBreak k m) := by
  obtain ⟨hedge, hno⟩ := h
  refine ⟨fun he => ?_, fun hn => (hno hn).map (State.setBreak · k m) fun _ _ => rfl⟩
  have hset := (hedge he).map (State.setBreak · k m) fun _ _ => rfl
  rwa [← heldBy_setBreak] at hset

/-! ### The rows -/

theorem breakQualifies_keeps (s : State) (k : StationId) :
    (s.breakQualifies k).now = s.now ∧ (s.breakQualifies k).shadows = s.shadows := by
  unfold State.breakQualifies State.breakEdge
  dsimp only
  split
  · rw [weighDrain_eq]
    simp
  · simp

theorem setBreak_get (s : State) (k : StationId) (m : Monitor) : (s.setBreak k m).breaks[k] = m :=
  get_set_self _ _ _

/-- A timer that is stopped, or has not run for the filter time, leaves the line waiting. -/
theorem setBreak_waits {s : State} {k : StationId} {raw qualified : Bool} {stopped : Prop}
    [Decidable stopped] {t : Nat} (h : ¬stopped → s.now < t + cbFilterTime s.shadows.stations[k]) :
    (s.setBreak k ⟨raw, qualified, if stopped then none else some t⟩).breakDue k =
      s.setBreak k ⟨raw, qualified, if stopped then none else some t⟩ := by
  refine breakDue_waits fun c hc => ?_
  rw [setBreak_get] at hc
  by_cases hs : stopped
  · rw [if_pos hs] at hc
    exact nomatch hc
  · rw [if_neg hs] at hc
    obtain rfl := Option.some.inj hc
    exact h hs

/-- With a filter time of 0 a timer started now is due at once (log 10). -/
theorem setBreak_atOnce {s : State} {k : StationId} {raw qualified : Bool}
    (h : cbFilterTime s.shadows.stations[k] = 0) :
    (s.setBreak k ⟨raw, qualified, some s.now⟩).breakDue k =
      (s.setBreak k ⟨raw, qualified, some s.now⟩).breakQualifies k :=
  breakDue_reached (c := s.now) (by rw [setBreak_get]) (Nat.le_of_eq (congrArg (s.now + ·) h))

section
variable {s : State} {k : StationId} {level : Bool}

/-- BREAK_LINE_CHANGE with no change due starts or clears the timer (R129). -/
theorem breakLineChange_notDue (hwaits : s.breakDue k = s) : breakLineChange k level s =
    (s.setBreak k ⟨level, s.breaks[k].qualified,
      if level = s.breaks[k].qualified then none else some (s.breaks[k].timer.getD s.now)⟩).breakDue k := by
  unfold breakLineChange
  dsimp only
  rw [hwaits, Monitor.sense_eq]

/-- BREAK_LINE_CHANGE with a change due, which qualifies before the line leaves its level (log 33). -/
theorem breakLineChange_due (hdue : s.breakDue k = s.breakQualifies k) : breakLineChange k level s =
    ((s.breakQualifies k).setBreak k ⟨level, s.breaks[k].raw,
      if level = s.breaks[k].raw then none else some (s.breakQualifies k).now⟩).breakDue k := by
  unfold breakLineChange
  dsimp only
  rw [hdue, breakQualifies_breaks, get_set_self, Monitor.sense_eq]
  rfl

/-- A running timer goes on, and one started now waits for a filter time that is not 0 (R129). -/
theorem breakLineChange_senses
    (hnot : ∀ c, s.breaks[k].timer = some c → s.now < c + cbFilterTime s.shadows.stations[k])
    (h : s.breaks[k].timer ≠ none ∨ cbFilterTime s.shadows.stations[k] ≠ 0
      ∨ level = s.breaks[k].qualified) :
    breakLineChange k level s = s.setBreak k ⟨level, s.breaks[k].qualified,
      if level = s.breaks[k].qualified then none else some (s.breaks[k].timer.getD s.now)⟩ := by
  rw [breakLineChange_notDue (breakDue_waits hnot)]
  refine setBreak_waits fun hlevel => ?_
  cases htimer : s.breaks[k].timer with
  | some c => exact hnot c htimer
  | none =>
    have hfilter := (h.resolve_left (absurd htimer)).resolve_right hlevel
    exact Nat.lt_add_of_pos_right (Nat.pos_of_ne_zero hfilter)

/-- A change from the qualified level qualifies at once with a filter time of 0 (log 10). -/
theorem breakLineChange_atOnce (htimer : s.breaks[k].timer = none)
    (hfilter : cbFilterTime s.shadows.stations[k] = 0) (hlevel : level ≠ s.breaks[k].qualified) :
    BreakQualified s { s with breaks := s.breaks.set k ⟨level, level, none⟩ } k level
      (breakLineChange k level s) := by
  have hq := breakQualifies_qualified (s.setBreak k ⟨level, s.breaks[k].qualified, some s.now⟩) k
  rw [setBreak_get, setBreak_breaks, vector_set_set] at hq
  have hwaits : s.breakDue k = s := breakDue_waits fun c hc => nomatch htimer.symm.trans hc
  rw [breakLineChange_notDue hwaits, if_neg hlevel, htimer, Option.getD_none, setBreak_atOnce hfilter]
  exact hq

/-- A change that is due qualifies, and the line then starts or clears its timer (log 33). -/
theorem breakLineChange_afterDue (hdue : s.breakDue k = s.breakQualifies k)
    (h : level = s.breaks[k].raw ∨ cbFilterTime s.shadows.stations[k] ≠ 0) :
    BreakQualified s { s with breaks := s.breaks.set k ⟨level, s.breaks[k].raw,
        if level = s.breaks[k].raw then none else some s.now⟩ } k s.breaks[k].raw
      (breakLineChange k level s) := by
  have hq := (breakQualifies_qualified s k).setBreak
    ⟨level, s.breaks[k].raw, if level = s.breaks[k].raw then none else some s.now⟩
  unfold State.setBreak at hq
  rw [vector_set_set] at hq
  obtain ⟨hnow, hshadows⟩ := breakQualifies_keeps s k
  rw [breakLineChange_due hdue, setBreak_waits, hnow]
  · exact hq
  · intro hlevel
    rw [hshadows]
    exact Nat.lt_add_of_pos_right (Nat.pos_of_ne_zero (h.resolve_left hlevel))

/-- With a filter time of 0 the change that is due and the one that the row brings both qualify. -/
theorem breakLineChange_dueAtOnce (hdue : s.breakDue k = s.breakQualifies k)
    (hlevel : level ≠ s.breaks[k].raw) (hfilter : cbFilterTime s.shadows.stations[k] = 0) :
    breakLineChange k level s =
      ((s.breakQualifies k).setBreak k ⟨level, s.breaks[k].raw, some s.now⟩).breakQualifies k := by
  obtain ⟨hnow, hshadows⟩ := breakQualifies_keeps s k
  rw [breakLineChange_due hdue, if_neg hlevel, setBreak_atOnce (by rw [hshadows]; exact hfilter), hnow]

/-- BREAK_QUALIFIED_CHANGE lets the missing time pass and qualifies the change (R129, R130). -/
theorem breakQualifiedChange_qualified {t : Nat} (ht : s.breaks[k].timer = some t) :
    BreakQualified s { s with
        breaks := s.breaks.set k ⟨s.breaks[k].raw, s.breaks[k].raw, none⟩
        now := max s.now (t + cbFilterTime s.shadows.stations[k]) } k s.breaks[k].raw
      (breakQualifiedChange k s) := by
  unfold breakQualifiedChange
  rw [ht]
  exact breakQualifies_qualified (s.reach (t + cbFilterTime s.shadows.stations[k])) k

end

/-- Settles O53: the row with no change due, a change that qualifies at once, a change due before the
line leaves its level, both together, and the row at which the timer reaches the filter time. -/
theorem breakLineQualifies : Obligations.BreakLineQualifies := by
  refine ⟨fun s k level hp => ?_, breakQualifies_qualified, cbPolarity_eq⟩
  intro m filter due row monitored o counted qualifies
  have hrow : exec row s = .next (report s (breakLineChange k level s)) :=
    congrArg Host.Outcome.next (act_running hp _)
  have hends : ∀ {i b t change}, exec i s = .next (report s t) → BreakQualified s b k change t →
      qualifies i change b := fun hi ⟨hedge, hno⟩ =>
    ⟨fun he => ⟨_, hi, (hedge he).reported⟩, fun hn => ⟨_, hi, (hno hn).reported⟩⟩
  have hreached : due → s.breakDue k = s.breakQualifies k := fun ⟨_, hc, hle⟩ => breakDue_reached hc hle
  refine ⟨fun hnot hstays => ?_, fun htimer hfilter hlevel => ?_, fun hdue hstays => ?_,
    fun hdue hlevel hfilter => ?_, fun t ht => ?_⟩
  · have hwaits : ∀ c, m.timer = some c → s.now < c + filter := fun c hc =>
      Nat.lt_of_not_le fun hle => hnot ⟨c, hc, hle⟩
    rw [hrow, breakLineChange_senses hwaits hstays, report_setBreak (by rfl)]
    rfl
  · exact hends hrow (breakLineChange_atOnce htimer hfilter hlevel)
  · exact hends hrow (breakLineChange_afterDue (hreached hdue) hstays)
  · rw [hrow, breakLineChange_dueAtOnce (hreached hdue) hlevel hfilter]
  · exact hends (congrArg Host.Outcome.next (act_running hp _)) (breakQualifiedChange_qualified ht)

end Sys2Proof.Machine
end

section
/-! The stop line: its changes and their qualification (R134, R137), and the stations that its assertion
holds (R135). -/

namespace Sys2Proof.Machine

/-! ### One station -/

/-- What the stop line's assertion can change of a station: the station, its link and the bits owed to its
record. -/
structure StationPart where
  station : Station
  link    : Link
  owed    : Word

def State.partOf (s : State) (k : StationId) : StationPart :=
  ⟨s.stations[k], s.links[k], s.writer.owed.get (.station k)⟩

/-- A RUNNING drive enters HELD with reason STOP; the staging condition is weighed of any (R54, R57,
R111). -/
def StationPart.stopped (p : StationPart) (k : StationId) : StationPart :=
  if p.station.drive = .running then
    let st : Station := { p.station with drive := .held .stopLine, send := p.station.done }
    ⟨st, (p.link.rewind.placeHalt (some 4#8)).drained st, p.owed ||| eventBit k⟩
  else ⟨p.station, p.link.drained p.station, p.owed⟩

/-- The stop line's assertion has been taken by the stations of `l`, which takes the block from `s` to
`t`. -/
structure StopsStations (l : List StationId) (s t : State) : Prop where
  parts : ∀ j : StationId, t.partOf j = if j ∈ l then (s.partOf j).stopped j else s.partOf j
  owedJob : t.writer.owed.job = s.writer.owed.job
  marks : t.writer.marks = s.writer.marks
  members : GateHoldsMembers s → GateHoldsMembers t ∧ t.gate = s.gate
  frame : t = { s with stations := t.stations, links := t.links, gate := t.gate, writer := t.writer }

/-- A gate that knows a station's membership is not changed by being told of it (R89). -/
theorem told_known {g : Gate} {k : StationId} {st : Station} (h : inSet k g.members = isMember st) :
    g.told k st = g := by
  unfold Gate.told
  cases hm : isMember st <;> simp [h, hm]

theorem stopStation_running {s : State} {k : StationId} (h : s.stations[k].drive = .running) :
    s.stopStation k = (s.moved k { s.stations[k] with drive := .held .stopLine, send := s.stations[k].done }
      (s.links[k].rewind.placeHalt (some 4#8))).oweEvent k := by
  unfold State.stopStation
  rw [requestHeld_weigh, if_pos ⟨h, rfl⟩]
  unfold State.heldBy
  dsimp only
  rw [if_pos h]
  rfl

theorem stopStation_resting {s : State} {k : StationId} (h : s.stations[k].drive ≠ .running) :
    s.stopStation k = { s with links := s.links.set k (s.links[k].drained s.stations[k]) } := by
  unfold State.stopStation
  rw [requestHeld_weigh, if_neg fun hh => h hh.1]
  unfold State.heldBy
  dsimp only
  rw [if_neg h]

/-- The assertion at one station, as its part of the state. -/
theorem stopStation_part (s : State) (k : StationId) :
    (s.stopStation k).partOf k = (s.partOf k).stopped k := by
  unfold StationPart.stopped
  by_cases h : s.stations[k].drive = .running
  · rw [stopStation_running h, if_pos (by exact h)]
    unfold State.partOf State.oweEvent
    rw [owe_get, if_pos rfl]
    simp only [owe_stations, owe_links, State.moved, get_set_self]
  · rw [stopStation_resting h, if_neg (by exact h)]
    unfold State.partOf
    simp only [get_set_self]

theorem stopStation_part_other {s : State} {k j : StationId} (hj : j ≠ k) :
    (s.stopStation k).partOf j = s.partOf j := by
  by_cases h : s.stations[k].drive = .running
  · rw [stopStation_running h]
    unfold State.partOf State.oweEvent
    rw [owe_get, if_neg fun e => hj (RecordId.station.inj e)]
    simp only [owe_stations, owe_links, State.moved, get_set_ne _ _ _ _ hj]
  · rw [stopStation_resting h]
    unfold State.partOf
    simp only [get_set_ne _ _ _ _ hj]

/-- The assertion at one station; the gate need not be told of a drive that is HELD (R89). -/
theorem stopStation_stops (s : State) (k : StationId) : StopsStations [k] s (s.stopStation k) := by
  have hparts : ∀ j : StationId, (s.stopStation k).partOf j =
      if j ∈ [k] then (s.partOf j).stopped j else s.partOf j := fun j => by
    by_cases hj : j = k
    · rw [hj, if_pos (List.mem_singleton_self k), stopStation_part]
    · rw [if_neg fun h => hj (List.mem_singleton.mp h), stopStation_part_other hj]
  by_cases h : s.stations[k].drive = .running
  · rw [stopStation_running h] at hparts ⊢
    refine ⟨hparts, rfl, rfl, fun hg => ⟨told_holdsMembers hg rfl rfl, told_known ?_⟩, rfl⟩
    exact (hg k).trans
      (isMember_setDrive (fun c hc => nomatch h.symm.trans hc) fun _ hc => Drive.noConfusion hc).symm
  · rw [stopStation_resting h] at hparts ⊢
    exact ⟨hparts, rfl, rfl, fun hg => ⟨hg, rfl⟩, rfl⟩

/-! ### The six stations -/

theorem StopsStations.cons {k : StationId} {l : List StationId} {s t u : State} (hk : k ∉ l)
    (hfirst : StopsStations [k] s t) (hrest : StopsStations l t u) : StopsStations (k :: l) s u where
  parts j := by
    rw [hrest.parts, hfirst.parts]
    by_cases hj : j = k
    · subst hj
      simp [hk]
    · simp [hj]
  owedJob := hrest.owedJob.trans hfirst.owedJob
  marks := hrest.marks.trans hfirst.marks
  members hg := by
    obtain ⟨ht, hfixed⟩ := hfirst.members hg
    obtain ⟨hu, hsame⟩ := hrest.members ht
    exact ⟨hu, hsame.trans hfixed⟩
  frame := by
    have hframe := hrest.frame
    rw [hfirst.frame] at hframe
    exact hframe

theorem stopFold_stops : ∀ (l : List StationId) (s : State), l.Nodup →
    StopsStations l s (l.foldl State.stopStation s)
  | [], _, _ => ⟨fun _ => rfl, rfl, rfl, fun hg => ⟨hg, rfl⟩, rfl⟩
  | k :: l, s, hn => by
    obtain ⟨hk, hl⟩ := List.nodup_cons.mp hn
    exact (stopStation_stops s k).cons hk (stopFold_stops l (s.stopStation k) hl)

/-! ### A qualified change -/

/-- The state at time `now` with the change of the stop line qualified (R137). -/
def State.stopTurned (s : State) (now : Nat) : State := State.stopQualifies { s with now := now }

theorem stopTurned_part (s : State) (now : Nat) (k : StationId) :
    (s.stopTurned now).partOf k = s.partOf k :=
  congrArg (StationPart.mk s.stations[k] s.links[k])
    (Owed.get_set_ne s.writer.owed .job (.station k) _ RecordId.noConfusion)

theorem stopTurned_marked (s : State) (now : Nat) : (s.stopTurned now).writer.marks.get .job = true :=
  Marks.get_set_self s.writer.marks .job true

theorem stopChanges_rise {s : State} (now : Nat) (h : s.stop.raw = true) :
    State.stopChanges { s with now := now } = s.stopTurned now := if_pos h

theorem stopChanges_fall {s : State} (now : Nat) (h : s.stop.raw = false) :
    ∃ u, State.stopChanges { s with now := now } = u ∧ StopsStations stationOrder (s.stopTurned now) u :=
  ⟨_, if_neg (Bool.eq_false_iff.mp h), stopFold_stops stationOrder (s.stopTurned now) stationOrder_nodup⟩

/-! ### What a qualified change reports -/

theorem stopTurned_reports (s : State) (now : Nat) (n : Monitor) :
    Reports s { s with now := now, stop := n } (s.writer.owed.plus .job stopChangeBit) [.job]
      (report s { s.stopTurned now with stop := n }) := by
  have hstill := Reports.refl (s := s) (v := { s with now := now, stop := n }) rfl
  exact ((hstill.mark .job).owe .job stopChangeBit).reported

/-- From `s` to `u` the fall of the stop line has qualified (R135, R137): at time `now`, with the monitor
then at `n`. -/
structure StopFell (s : State) (now : Nat) (n : Monitor) (u : State) : Prop where
  stop : u.stop = n
  now : u.now = now
  owed : u.writer.owed.job = s.writer.owed.job ||| stopChangeBit
  mark : u.writer.marks.get .job = true
  parts : ∀ k : StationId, u.partOf k = (s.partOf k).stopped k
  gate : GateHoldsMembers s → u.gate = s.gate
  frame : u = { s with now := u.now, stop := u.stop, stations := u.stations, links := u.links
                       gate := u.gate, writer := u.writer }

theorem StopsStations.fell {s u : State} {now : Nat} (n : Monitor)
    (h : StopsStations stationOrder (s.stopTurned now) u) :
    StopFell s now n (report s { u with stop := n }) where
  stop := rfl
  now := congrArg State.now h.frame
  owed := h.owedJob
  mark := by
    rw [report_marks_get]
    show (u.writer.marks.get .job || _) = true
    rw [h.marks, stopTurned_marked, Bool.true_or]
  parts k := by
    show u.partOf k = _
    rw [h.parts, if_pos (stationOrder_complete k), stopTurned_part]
  gate hg := (h.members hg).2
  frame := congrArg (fun x : State => { x with
    now := u.now, stop := n, writer := (report s { u with stop := n }).writer }) h.frame

section
variable {s u : State} {now : Nat} {n : Monitor}

/-- A RUNNING drive is held by the fall. -/
theorem StopFell.running (h : StopFell s now n u) {k : StationId} (hd : s.stations[k].drive = .running) :
    u.stations[k] = { s.stations[k] with drive := .held .stopLine, send := s.stations[k].done }
      ∧ u.links[k] = (s.links[k].rewind.placeHalt (some 4#8)).drained u.stations[k]
      ∧ u.writer.owed.get (.station k) = s.writer.owed.get (.station k) ||| eventBit k := by
  have hpart := (h.parts k).trans (if_pos hd)
  have hstation : u.stations[k] = _ := congrArg StationPart.station hpart
  refine ⟨hstation, ?_, congrArg StationPart.owed hpart⟩
  rw [hstation]
  exact congrArg StationPart.link hpart

/-- A drive in another state stays in it. -/
theorem StopFell.resting (h : StopFell s now n u) {k : StationId} (hd : s.stations[k].drive ≠ .running) :
    u.stations[k] = s.stations[k] ∧ u.links[k] = s.links[k].drained s.stations[k]
      ∧ u.writer.owed.get (.station k) = s.writer.owed.get (.station k) := by
  have hpart := (h.parts k).trans (if_neg hd)
  exact ⟨congrArg StationPart.station hpart, congrArg StationPart.link hpart,
    congrArg StationPart.owed hpart⟩

end

/-! ### The rows -/

section
variable {s : State} {level : Bool} {t : Nat}

theorem stopDue_waits (h : ∀ c, s.stop.timer = some c → s.now < c + 12288) : s.stopDue = s := by
  unfold State.stopDue
  split
  · next c hc => exact if_neg (Nat.not_le.mpr (h c hc))
  · rfl

theorem stopDue_reached (ht : s.stop.timer = some t) (h : t + 12288 ≤ s.now) :
    s.stopDue = s.stopChanges := by
  unfold State.stopDue
  rw [ht]
  exact if_pos h

/-- STOP_LINE_CHANGE with no change due: the timer is started or cleared (R134). -/
theorem stopLineChange_waits (h : s.stopDue = s) : stopLineChange level s = { s with stop :=
    ⟨level, s.stop.qualified,
      if level = s.stop.qualified then none else some (s.stop.timer.getD s.now)⟩ } := by
  unfold stopLineChange
  dsimp only
  rw [h, Monitor.sense_eq]

/-- STOP_LINE_CHANGE with a change due, which qualifies before the line leaves its level (log 33). -/
theorem stopLineChange_due {u : State} (h : s.stopDue = u) (hstop : u.stop = s.stop.qualify)
    (hnow : u.now = s.now) : stopLineChange level s = { u with stop :=
      ⟨level, s.stop.raw, if level = s.stop.raw then none else some s.now⟩ } := by
  unfold stopLineChange
  dsimp only
  rw [h, hstop, hnow, Monitor.sense_eq]
  rfl

theorem StopsStations.stop_eq {u : State} {l : List StationId} (h : StopsStations l (s.stopTurned t) u) :
    u.stop = ⟨s.stop.raw, s.stop.raw, none⟩ := congrArg State.stop h.frame

theorem StopsStations.now_eq {u : State} {l : List StationId} (h : StopsStations l (s.stopTurned t) u) :
    u.now = t := congrArg State.now h.frame

theorem stopNegation_reached (ht : s.stop.timer = some t) (hraw : s.stop.raw = true) :
    stopNegation s = State.stopChanges { s with now := max s.now (t + 12288) } := by
  unfold stopNegation
  rw [ht, hraw]
  rfl

theorem stopAssertion_reached (ht : s.stop.timer = some t) (hraw : s.stop.raw = false) :
    stopAssertion s = State.stopChanges { s with now := max s.now (t + 12288) } := by
  unfold stopAssertion
  rw [ht, hraw]
  rfl

end

/-- Settles O54: the row with no change due, a rise and a fall that are due as the line leaves its level,
and the two rows at which the timer reaches 256 µs. -/
theorem stopLineQualifies : Obligations.StopLineQualifies := by
  intro s level hp m due rises falls left
  have hrow : exec (.stopLineChange level) s = .next (report s (stopLineChange level s)) :=
    congrArg Host.Outcome.next (act_running hp _)
  have hfell : ∀ {i now n u}, exec i s = .next u → StopFell s now n u → falls i now n := fun hi h =>
    ⟨_, hi, h.stop, h.now, h.owed, h.mark, fun k => ⟨h.running, h.resting⟩, h.gate, h.frame⟩
  have hreached : due → s.stopDue = s.stopChanges := fun ⟨_, hc, hle⟩ => stopDue_reached hc hle
  refine ⟨fun hnot => ?_, fun hdue hraw => ?_, fun hdue hraw => ?_, fun t ht =>
    ⟨fun hraw => ?_, fun hraw => ?_⟩⟩
  · have hwaits : s.stopDue = s := stopDue_waits fun c hc =>
      Nat.lt_of_not_le fun hle => hnot ⟨c, hc, hle⟩
    rw [hrow, stopLineChange_waits hwaits, report_setStop (by rfl)]
  · have hturned := (hreached hdue).trans (stopChanges_rise s.now hraw)
    refine ⟨_, hrow, ?_⟩
    rw [stopLineChange_due hturned rfl rfl]
    exact stopTurned_reports s s.now left
  · obtain ⟨u, hu, hstops⟩ := stopChanges_fall s.now hraw
    refine hfell hrow ?_
    rw [stopLineChange_due ((hreached hdue).trans hu) hstops.stop_eq hstops.now_eq]
    exact hstops.fell left
  · refine ⟨_, congrArg Host.Outcome.next (act_running hp _), ?_⟩
    have hstop : s.stop.qualify = ⟨true, true, none⟩ := by
      unfold Monitor.qualify
      rw [hraw]
    rw [stopNegation_reached ht hraw, stopChanges_rise _ hraw, ← hstop]
    exact stopTurned_reports s _ _
  · obtain ⟨u, hu, hstops⟩ := stopChanges_fall (max s.now (t + 12288)) hraw
    have hstop := hstops.stop_eq
    rw [hraw] at hstop
    refine hfell (congrArg Host.Outcome.next (act_running hp _)) ?_
    rw [stopAssertion_reached ht hraw, hu, ← hstop]
    exact hstops.fell _

end Sys2Proof.Machine
end

section
/-! The cache entry that a descriptor fills (R150). -/

namespace Sys2Proof.Machine

/-! ### The invalid entry of lowest number -/

theorem lowestInvalid_eq (c : Cache) :
    lowestInvalid c = (List.finRange 8).find? fun i => c.entries[i].isNone := by
  have hrange : [(0 : Fin 8), 1, 2, 3, 4, 5, 6, 7] = List.finRange 8 := by decide
  unfold lowestInvalid
  rw [hrange]

theorem lowestInvalid_some {c : Cache} {i : Fin 8} (hi : c.entries[i] = none)
    (hlow : ∀ j : Fin 8, j < i → c.entries[j] ≠ none) : lowestInvalid c = some i := by
  rw [lowestInvalid_eq, List.find?_eq_some_iff_getElem]
  refine ⟨by rw [hi]; rfl, i.val, by simp, by simp, fun j hj => ?_⟩
  have hvalid := hlow ⟨j, hj.trans i.isLt⟩ hj
  rw [List.getElem_finRange, Bool.not_eq_true', ← Bool.not_eq_true, Option.isNone_iff_eq_none]
  exact hvalid

theorem lowestInvalid_none {c : Cache} (h : ∀ i : Fin 8, c.entries[i] ≠ none) :
    lowestInvalid c = none := by
  rw [lowestInvalid_eq, List.find?_eq_none]
  exact fun i _ hi => h i (Option.isNone_iff_eq_none.mp hi)

/-! ### The victim -/

/-- The least value along a list is below each of its values. -/
theorem foldl_min_le {α : Type} (f : α → Nat) : ∀ (l : List α) (b : Nat),
    l.foldl (fun p i => min p (f i)) b ≤ b ∧ ∀ i ∈ l, l.foldl (fun p i => min p (f i)) b ≤ f i
  | [], b => ⟨Nat.le_refl b, nofun⟩
  | x :: l, b => by
    obtain ⟨hb, hl⟩ := foldl_min_le f l (min b (f x))
    refine ⟨hb.trans (min_le_left _ _), fun i hi => ?_⟩
    rcases List.mem_cons.mp hi with rfl | hi
    · exact hb.trans (min_le_right _ _)
    · exact hl i hi

/-- The least value along a list is the bound it starts from or one of the list's values. -/
theorem foldl_min_attained {α : Type} (f : α → Nat) : ∀ (l : List α) (b : Nat),
    l.foldl (fun p i => min p (f i)) b = b ∨ ∃ i ∈ l, f i = l.foldl (fun p i => min p (f i)) b
  | [], _ => .inl rfl
  | x :: l, b => by
    rcases foldl_min_attained f l (min b (f x)) with h | ⟨i, hi, h⟩
    · rcases min_choice b (f x) with hb | hx
      · exact .inl (h.trans hb)
      · exact .inr ⟨x, List.mem_cons_self, (h.trans hx).symm⟩
    · exact .inr ⟨i, List.mem_cons_of_mem x hi, h⟩

section
variable {c : Cache} (hall : ∀ i : Fin 8, i ∈ c.recency) (hprio : ∀ i : Fin 8, entryPriority c i ≤ 2)
include hall

theorem lowestPriority_le (i : Fin 8) : lowestPriority c ≤ entryPriority c i :=
  (foldl_min_le (entryPriority c) c.recency 2).2 i (hall i)

include hprio

/-- Priorities are 0 to 2, so the bound 2 that the fold starts from is itself some entry's. -/
theorem lowestPriority_present : ∃ i : Fin 8, entryPriority c i = lowestPriority c := by
  rcases foldl_min_attained (entryPriority c) c.recency 2 with h | ⟨i, -, h⟩
  · exact ⟨0, le_antisymm ((hprio 0).trans_eq h.symm) (lowestPriority_le hall 0)⟩
  · exact ⟨i, h⟩

/-- The victim is of the lowest priority present, and no entry of that priority is less recent (R150). -/
theorem victim_spec (hnodup : c.recency.Nodup) :
    entryPriority c (victim c) = lowestPriority c
    ∧ ∀ j : Fin 8, entryPriority c j = lowestPriority c →
      c.recency.idxOf j ≤ c.recency.idxOf (victim c) := by
  obtain ⟨l, hl⟩ := lowestPriority_present hall hprio
  obtain ⟨v, hv⟩ : ∃ v, c.recency.reverse.find?
      (fun i => entryPriority c i == lowestPriority c) = some v :=
    Option.isSome_iff_exists.mp (List.find?_isSome.mpr
      ⟨l, List.mem_reverse.mpr (hall l), beq_iff_eq.mpr hl⟩)
  have hvictim : victim c = v := by
    unfold victim
    rw [hv]
    rfl
  obtain ⟨hlowest, older, newer, hsplit, holder⟩ := List.find?_eq_some_iff_append.mp hv
  have hrecency : c.recency = newer.reverse ++ v :: older.reverse := by
    rw [← List.reverse_reverse c.recency, hsplit]
    simp
  have hnew : v ∉ newer.reverse := by
    rw [hrecency] at hnodup
    exact fun hmem => List.disjoint_of_nodup_append hnodup hmem List.mem_cons_self
  rw [hvictim]
  refine ⟨beq_iff_eq.mp hlowest, fun j hj => ?_⟩
  have hj' : j ∉ older.reverse := fun hmem => by
    have := holder j (List.mem_reverse.mp hmem)
    rw [hj, beq_self_eq_true] at this
    exact absurd this (by decide)
  have hplace : c.recency.idxOf v = newer.reverse.length := by
    rw [hrecency, List.idxOf_append_of_notMem hnew, List.idxOf_cons_self, Nat.add_zero]
  have hmem := hall j
  rw [hrecency, List.mem_append, List.mem_cons] at hmem
  rcases hmem with hmem | rfl | hmem
  · rw [hplace, hrecency, List.idxOf_append_of_mem hmem]
    exact (List.idxOf_lt_length_of_mem hmem).le
  · exact Nat.le_refl _
  · exact absurd hmem hj'

end

/-- The entry filled takes the descriptor and becomes the most recently used (R150). -/
theorem Cache.fill_eq (c : Cache) (e : CacheEntry) {i : Fin 8}
    (h : (lowestInvalid c).getD (victim c) = i) :
    c.fill e = ⟨c.entries.set i (some e), i :: c.recency.filter (fun j => j != i)⟩ := by
  subst h
  rfl

/-- Settles O22: an invalid entry is found by its number, a victim by its priority and its place in the
recency order. -/
theorem cacheFillChoosesItsEntry : Obligations.CacheFillChoosesItsEntry := by
  refine fun c e => ⟨fun i hi hlow => ?_, fun hvalid hall hnodup hprio => ⟨victim c, ?_, fun j => ?_⟩⟩
  · exact c.fill_eq e (by rw [lowestInvalid_some hi hlow]; rfl)
  · exact c.fill_eq e (by rw [lowestInvalid_none hvalid]; rfl)
  · obtain ⟨hlowest, hleast⟩ := victim_spec hall hprio hnodup
    rw [hlowest]
    exact ⟨lowestPriority_le hall j, hleast j⟩

end Sys2Proof.Machine
end

section
/-! An access that the transit path answers at once or routes (R139 to R142, R147, R148), and memory's answer
to a forwarded one (R141, R155). -/

namespace Sys2Proof.Machine

/-! ### Answers that end a transit transaction -/

/-- What a refusal reports when the step began in another state with the same writer and log: the port
freed, a search counted, or the cache filled besides. -/
theorem refuses_reported {s b : State} (p : ProcTxn) (e : ErrorKind) (hw : b.writer = s.writer)
    (hl : b.log = s.log) : Refuses b p e (report s (b.refuse e p)) := by
  have hrefuse : b.refuse e p = { b with
      proc := ⟨none, some (.error e)⟩
      log := loggedWith b.log ⟨e, .processor, p.isWrite, byteAddr p.addr, p.firstData, none, 0#8⟩
      writer := b.writer.logged b.log } := congrArg (State.answer · (.error e)) (logError_eq ..)
  have hreports := reports_logged (s := s)
    (congrArg (fun x : State => { x with writer := (b.refuse e p).writer }) hrefuse)
    (by rw [hrefuse, hw, hl])
  unfold Refuses Reports
  rw [hw, hl]
  rw [hl] at hreports
  exact hreports

theorem refusedAnswer_of {α : Type} {row : Arrived α → Instr} {ans : α} {s b : State} {p : ProcTxn}
    {e : ErrorKind} (h : AnswerGives row ans s (report s (b.refuse e p))) (hw : b.writer = s.writer)
    (hl : b.log = s.log) : RefusedAnswer row ans s b p e := ⟨_, h, refuses_reported p e hw hl⟩

/-! ### The first steps of an access -/

/-- The transit path holds the processor for work on an access, and changes nothing else. -/
theorem exec_starts {i : Instr} {s : State} {p : ProcTxn} {w : TransitWork}
    (hi : (∃ a n, i = .processorRead a n ∧ p = .read a n) ∨ ∃ t, presentsWrite i t ∧ p = .write t)
    (h : present p s = s.startWork p w) : exec i s = .next { s with proc := ⟨some ⟨p, w⟩, none⟩ } := by
  rw [exec_presents hi, h, report_startWork]
  rfl

theorem inOneBlock_eq_false {p : ProcTxn} :
    inOneBlock p = false ↔ ¬((byteAddr p.addr).toNat % 32 + 4 * p.count ≤ 32) := decide_eq_false_iff_not

theorem pageAccess_read {p : ProcTxn} (h : p.isWrite = false) (s : State) :
    pageAccess p s = forwardTo p (byteAddr p.addr) s := by
  cases p with
  | read a n => rfl
  | write t => cases h

theorem windowAccess_miss {p : ProcTxn} {s : State} (h : cacheHit s.cache (byteAddr p.addr) = none) :
    windowAccess p s = s.startWork p (.scan []) := by
  unfold windowAccess
  rw [h]

/-! ### Memory's answer to a forwarded access -/

/-- A read is answered its words, a write none (R138, log 24). -/
theorem readData_eq (p : ProcTxn) (data : List Word) :
    readData p data = if p.isWrite then [] else data.take p.count := by
  cases p <;> rfl

theorem report_answerFreed (s : State) (a : ProcAnswer) :
    report s (s.freed.answer a) = s.freed.answer a :=
  report_of_shown rfl rfl rfl rfl rfl rfl rfl rfl

section
variable {s : State} {p : ProcTxn} {addr : Word} {m : MemTxn}
  (hcur : s.proc.current = some ⟨p, .forward addr⟩) (hport : s.port.inFlight = some ⟨.transit, m⟩)
include hcur hport

theorem forwardAnswer_ok (data : List Word) :
    forwardAnswer (.ok data) s = s.freed.answer (.done (readData p data)) := by
  unfold forwardAnswer
  rw [inFlightFor_eq hport, hcur]
  rfl

theorem forwardAnswer_fault : forwardAnswer .fault s = s.freed.refuse .memFault p := by
  unfold forwardAnswer
  rw [inFlightFor_eq hport, hcur]
  rfl

end

/-- Settles O18: the first step of the transit path that decides an access, and memory's two answers. -/
theorem accessAnsweredOrRouted : Obligations.AccessAnsweredOrRouted := by
  refine ⟨fun s i p hi hc => ⟨fun ht => ?_, fun ht hb => refusedFrom_of ?_⟩,
    fun s r i p hi ⟨ht, hc, hr, _⟩ hb => ?_, fun s p addr m data hp hcur hport => ⟨?_, ?_⟩⟩
  · rw [AnsweredRetry, exec_presents hi, present_retry ht hc, report_answer]
    rfl
  · rw [exec_presents hi, present_burst ht hc (inOneBlock_eq_false.mpr hb)]
  · have hroute := present_routed ht hc hb
    refine ⟨fun hpage hread => exec_starts hi ?_, fun hpage hwin => exec_starts hi ?_,
      fun hpage hwin hmiss => exec_starts hi ?_⟩
    · rw [hroute, routed_page hr hpage, pageAccess_read hread]
      rfl
    · rw [hroute, routed_outside hr hpage hwin]
      rfl
    · rw [hroute, routed_window hr hpage hwin, windowAccess_miss hmiss]
  · have hgives : AnswerGives .forwardAnswer (.ok data) s (report s (forwardAnswer (.ok data) s)) :=
      answerGives_of (fun _ => rfl) hp
    rw [forwardAnswer_ok hcur hport, readData_eq, report_answerFreed] at hgives
    exact hgives
  · have hgives : AnswerGives .forwardAnswer .fault s (report s (forwardAnswer .fault s)) :=
      answerGives_of (fun _ => rfl) hp
    rw [forwardAnswer_fault hcur hport] at hgives
    exact refusedAnswer_of hgives rfl rfl

end Sys2Proof.Machine
end

section
/-! The descriptor search: the scan's decision (R145, R148), the detail read's (R144, R149), and the end of a
search that a FAULT brings (R149, R169). -/

namespace Sys2Proof.Machine

/-! ### Where a descriptor's range lies (R145) -/

theorem windowSize_pos (code : Nat) : 0 < windowSize code := by
  unfold windowSize
  positivity

theorem rangeStart_eq (w0 w1 : Word) :
    rangeStart w0 w1 = w1.toNat / windowSize (descSizeCode w0) * windowSize (descSizeCode w0) := by
  have hdiv := Nat.div_add_mod' w1.toNat (windowSize (descSizeCode w0))
  unfold rangeStart
  omega

theorem inRange_iff (w0 w1 a : Word) : inRange w0 w1 a = true ↔
    rangeStart w0 w1 ≤ a.toNat ∧ a.toNat < rangeStart w0 w1 + windowSize (descSizeCode w0) :=
  decide_eq_true_iff

/-- Two blocks that are not empty meet exactly when they share a byte. -/
theorem blocksMeet_iff {a m b n : Nat} (hm : 0 < m) (hn : 0 < n) :
    blocksMeet a m b n = true ↔ ∃ x, (a ≤ x ∧ x < a + m) ∧ b ≤ x ∧ x < b + n := by
  unfold blocksMeet
  rw [decide_eq_true_iff]
  exact ⟨fun ⟨_, _⟩ => ⟨max a b, by omega⟩, fun ⟨_, _, _⟩ => by omega⟩

/-! ### The scan's decision (R148) -/

/-- Descriptor j of those scanned is valid and its range holds the address. -/
def HoldsAt (a : Word) (l : List (Word × Word)) (j : Nat) : Prop :=
  ∃ w0 w1, l[j]? = some (w0, w1) ∧ descValid w0 = true ∧ inRange w0 w1 a = true

theorem chosenFrom_none {a : Word} : ∀ {l : List (Word × Word)} (i : Nat),
    (∀ j, ¬HoldsAt a l j) → chosenFrom a i l = none
  | [], _, _ => rfl
  | (w0, w1) :: l, i, h => by
    have hfirst : ¬(descValid w0 && inRange w0 w1 a) = true := fun hw =>
      h 0 ⟨w0, w1, rfl, Bool.and_eq_true_iff.mp hw⟩
    unfold chosenFrom
    rw [if_neg hfirst]
    exact chosenFrom_none (i + 1) fun j => h (j + 1)

/-- The search chooses the lowest of the valid descriptors whose ranges hold the address. -/
theorem chosenFrom_lowest {a w0 w1 : Word} : ∀ {l : List (Word × Word)} {j : Nat} (i : Nat),
    l[j]? = some (w0, w1) → HoldsAt a l j → (∀ k < j, ¬HoldsAt a l k) →
    chosenFrom a i l = some (i + j, w0, w1)
  | [], _, _, hj, _, _ => nomatch hj
  | (x0, x1) :: l, 0, i, hj, ⟨_, _, hsame, hholds⟩, _ => by
    obtain ⟨rfl, rfl⟩ : x0 = w0 ∧ x1 = w1 := Prod.mk.inj (Option.some.inj hj)
    obtain ⟨rfl, rfl⟩ : x0 = _ ∧ x1 = _ := Prod.mk.inj (Option.some.inj hsame)
    unfold chosenFrom
    rw [if_pos (Bool.and_eq_true_iff.mpr hholds)]
    rfl
  | (x0, x1) :: l, j + 1, i, hj, hholds, hlow => by
    have hfirst : ¬(descValid x0 && inRange x0 x1 a) = true := fun hx =>
      hlow 0 (Nat.succ_pos j) ⟨x0, x1, rfl, Bool.and_eq_true_iff.mp hx⟩
    unfold chosenFrom
    rw [if_neg hfirst, chosenFrom_lowest (i + 1) (l := l) hj hholds fun k hk =>
      hlow (k + 1) (Nat.succ_lt_succ hk)]
    exact congrArg (fun n => some (n, w0, w1)) (by omega)

theorem overlapsOther_iff {chosen : Nat} {c0 c1 : Word} : ∀ {l : List (Word × Word)} {i : Nat},
    overlapsOther chosen c0 c1 i l = true ↔ ∃ k x0 x1, i + k ≠ chosen ∧ l[k]? = some (x0, x1)
      ∧ descValid x0 = true ∧ rangesOverlap x0 x1 c0 c1 = true
  | [], _ => ⟨nofun, fun ⟨_, _, _, _, h, _⟩ => nomatch h⟩
  | (w0, w1) :: l, i => by
    unfold overlapsOther
    rw [Bool.or_eq_true, Bool.and_eq_true, Bool.and_eq_true, decide_eq_true_iff, overlapsOther_iff]
    constructor
    · rintro (⟨⟨hne, hvalid⟩, hover⟩ | ⟨k, x0, x1, hne, hk, hx⟩)
      · exact ⟨0, w0, w1, hne, rfl, hvalid, hover⟩
      · exact ⟨k + 1, x0, x1, by omega, hk, hx⟩
    · rintro ⟨k, x0, x1, hne, hk, hvalid, hover⟩
      cases k with
      | zero =>
        obtain ⟨rfl, rfl⟩ : w0 = x0 ∧ w1 = x1 := Prod.mk.inj (Option.some.inj hk)
        exact .inl ⟨⟨hne, hvalid⟩, hover⟩
      | succ k => exact .inr ⟨k, x0, x1, by omega, hk, hvalid, hover⟩

theorem scanDecision_unmapped {p : ProcTxn} {l : List (Word × Word)}
    (h : ∀ j, ¬HoldsAt (byteAddr p.addr) l j) (s : State) :
    scanDecision p l s = (countSearch s).refuse .unmapped p := by
  unfold scanDecision
  rw [chosenFrom_none 0 h]

theorem scanDecision_chosen {p : ProcTxn} {l : List (Word × Word)} {j : Nat} {w0 w1 : Word}
    (hj : l[j]? = some (w0, w1)) (hholds : HoldsAt (byteAddr p.addr) l j)
    (hlow : ∀ k < j, ¬HoldsAt (byteAddr p.addr) l k) (s : State) :
    scanDecision p l s =
      if overlapsOther j w0 w1 0 l then (countSearch s).refuse .overlap p
      else s.startWork p (.detail (BitVec.ofNat 5 j) w0 w1) := by
  unfold scanDecision
  rw [chosenFrom_lowest 0 hj hholds hlow, Nat.zero_add]

/-! ### The answers to the search's reads -/

/-- A FAULT ends the search, counted and logged with origin TABLE (R149, R151, R169). -/
theorem searchFault_reports (s : State) (addr : Word) :
    Reports s { countSearch s.freed with
        proc := ⟨none, some (.error .memFault)⟩
        log := loggedWith s.log ⟨.memFault, .table, false, addr, 0#32, none, 0#8⟩ }
      (s.writer.owed.logged s.log) [.errorLog] (report s (searchFault addr s.freed)) := by
  have hfault : searchFault addr s.freed = { countSearch s.freed with
      proc := ⟨none, some (.error .memFault)⟩
      log := loggedWith s.log ⟨.memFault, .table, false, addr, 0#32, none, 0#8⟩
      writer := s.writer.logged s.log } :=
    congrArg (State.answer · (.error .memFault)) (logError_eq ..)
  exact reports_logged (congrArg (fun x : State => { x with writer := (searchFault addr s.freed).writer }) hfault)
    (by rw [hfault])

section
variable {s : State} {p : ProcTxn} {m : MemTxn} (hport : s.port.inFlight = some ⟨.transit, m⟩)
include hport

section
variable {got : List (Word × Word)} (hcur : s.proc.current = some ⟨p, .scan got⟩)
include hcur

theorem scanReadAnswer_ok (v : Vector Word 2) :
    scanReadAnswer (.ok v) s =
      if (got ++ [(v[0], v[1])]).length < 32 then s.freed.startWork p (.scan (got ++ [(v[0], v[1])]))
      else scanDecision p (got ++ [(v[0], v[1])]) s.freed := by
  unfold scanReadAnswer
  rw [inFlightFor_eq hport, hcur]
  rfl

theorem scanReadAnswer_fault :
    scanReadAnswer .fault s = searchFault (descAddr s got.length) s.freed := by
  unfold scanReadAnswer
  rw [inFlightFor_eq hport, hcur]
  rfl

end

section
variable {index : BitVec 5} {w0 w1 : Word} (hcur : s.proc.current = some ⟨p, .detail index w0 w1⟩)
include hcur

theorem detailReadAnswer_ok (v : Vector Word 2) :
    detailReadAnswer (.ok v) s =
      if descUsable (pageBase s) ⟨w0, w1, v[0], v[1]⟩ then
        searchFound p index ⟨w0, w1, v[0], v[1]⟩ s.freed
      else (countSearch s.freed).refuse .badDesc p := by
  unfold detailReadAnswer
  rw [inFlightFor_eq hport, hcur]
  rfl

theorem detailReadAnswer_fault :
    detailReadAnswer .fault s = searchFault (detailAddr s index) s.freed := by
  unfold detailReadAnswer
  rw [inFlightFor_eq hport, hcur]
  rfl

end

end

/-- Settles O20: the reads before the last, the decision on all the descriptors, FAULT, and the ranges. -/
theorem scanReadAnswered : Obligations.ScanReadAnswered := by
  refine ⟨fun s p got m v hp hcur hport => ?_, fun w0 w1 => ⟨Iff.rfl, fun a => ?_, fun x0 x1 => ?_⟩⟩
  · have hgives : ∀ ans, AnswerGives .scanReadAnswer ans s (report s (scanReadAnswer ans s)) :=
      fun ans => answerGives_of (fun _ => rfl) hp
    have hok := hgives (.ok v)
    have hfault := hgives .fault
    rw [scanReadAnswer_ok hport hcur] at hok
    rw [scanReadAnswer_fault hport hcur] at hfault
    refine ⟨fun hmore => ?_, fun hlast hnone => ?_, fun j w0 w1 hlast hj hholds hlow =>
      ⟨fun hover => ?_, fun hover => ?_⟩, ⟨_, hfault, searchFault_reports s _⟩⟩
    · rw [if_pos hmore, report_startWorkFreed] at hok
      exact hok
    · rw [if_neg (Nat.not_lt.mpr hlast), scanDecision_unmapped hnone] at hok
      exact refusedAnswer_of hok rfl rfl
    · rw [if_neg (Nat.not_lt.mpr hlast), scanDecision_chosen hj hholds hlow,
        if_pos (overlapsOther_iff.mpr (by simpa only [Nat.zero_add] using hover))] at hok
      exact refusedAnswer_of hok rfl rfl
    · rw [if_neg (Nat.not_lt.mpr hlast), scanDecision_chosen hj hholds hlow,
        if_neg (mt overlapsOther_iff.mp (by simpa only [Nat.zero_add] using hover)),
        report_startWorkFreed] at hok
      exact hok
  · rw [inRange_iff, rangeStart_eq]
    rfl
  · unfold rangesOverlap
    rw [blocksMeet_iff (windowSize_pos _) (windowSize_pos _), rangeStart_eq, rangeStart_eq]
    rfl

/-! ### A usable descriptor (R144) -/

theorem fieldOf_kind_pass (w0 : Word) : descKind w0 = some .pass ↔ fieldOf w0 4 2 = 0 := by
  unfold descKind
  split <;> simp_all

/-- Kind 3 alone is reserved. -/
theorem fieldOf_kind_reserved (w0 : Word) : descKind w0 = none ↔ fieldOf w0 4 2 = 3 := by
  have hlt : fieldOf w0 4 2 < 4 := (w0.extractLsb' 4 2).isLt
  unfold descKind
  generalize fieldOf w0 4 2 = code at hlt
  match code, hlt with
  | 0, _ | 1, _ | 2, _ => exact iff_of_false nofun (by decide)
  | 3, _ => exact iff_of_true rfl rfl

theorem clearOfPage_iff (page a : Word) (size : Nat) : clearOfPage page a size = true ↔
    (a.toNat + size ≤ page.toNat ∨ page.toNat + 2048 ≤ a.toNat) := by
  unfold clearOfPage pageSize
  rw [Bool.not_eq_true', blocksMeet_eq_false]
  omega

theorem noReserved_iff (d : Descriptor) : noReserved d = true ↔
    fieldOf d.w0 4 2 ≠ 3 ∧ fieldOf d.w2 0 2 ≠ 3 ∧ fieldOf d.w2 4 2 ≠ 3 := by
  have hkind : (descKind d.w0).isSome = true ↔ fieldOf d.w0 4 2 ≠ 3 := by
    rw [Option.isSome_iff_ne_none]
    exact not_congr (fieldOf_kind_reserved d.w0)
  unfold noReserved
  rw [Bool.and_eq_true, Bool.and_eq_true, hkind, bne_iff_ne, bne_iff_ne, and_assoc]
  rfl

/-- What R144 asks of a descriptor by its kind. -/
def KindAllows (page : Word) (d : Descriptor) : Prop :=
  let n := descSizeCode d.w0
  (fieldOf d.w0 4 2 = 0 → d.w3.toNat % windowSize n = 0
      ∧ (d.w3.toNat + windowSize n ≤ page.toNat ∨ page.toNat + 2048 ≤ d.w3.toNat))
  ∧ (fieldOf d.w0 4 2 = 1 → 2 ≤ n ∧ n ≤ 10)
  ∧ (fieldOf d.w0 4 2 = 2 → n ≤ 6 ∧ descStation d ≤ 5)

theorem descUsable_iff (page : Word) (d : Descriptor) : descUsable page d = true ↔
    (fieldOf d.w0 4 2 ≠ 3 ∧ fieldOf d.w2 0 2 ≠ 3 ∧ fieldOf d.w2 4 2 ≠ 3)
      ∧ d.w1.toNat % windowSize (descSizeCode d.w0) = 0 ∧ KindAllows page d := by
  have halign : ∀ (a : Word) (size : Nat), alignedTo a size = true ↔ a.toNat % size = 0 :=
    fun _ _ => beq_iff_eq
  unfold descUsable KindAllows
  rw [Bool.and_eq_true, Bool.and_eq_true, noReserved_iff, halign, and_assoc]
  cases hk : descKind d.w0 with
  | none =>
    have hf := (fieldOf_kind_reserved d.w0).mp hk
    simp [hf]
  | some kind =>
    cases kind with
    | pass =>
      have hf := (fieldOf_kind_pass d.w0).mp hk
      simp [hf, halign, clearOfPage_iff]
    | journal =>
      have hf := (fieldOf_kind_journal d.w0).mp hk
      simp [hf]
    | ring =>
      have hf := (fieldOf_kind_ring d.w0).mp hk
      simp [hf]

/-! ### The access that a search ends in handling -/

theorem actOnWindow_pass {d : Descriptor} (hk : descKind d.w0 = some .pass) (p : ProcTxn)
    (index : BitVec 5) (s : State) : actOnWindow p index d s = actOnPass p d s := by
  unfold actOnWindow
  rw [hk]

/-- The state in which a search that found a usable descriptor has filled the cache (R149 to R151). -/
def State.searched (s : State) (e : CacheEntry) : State :=
  { countSearch s.freed with cache := s.cache.fill e }

theorem searchFound_eq (p : ProcTxn) (index : BitVec 5) (d : Descriptor) (s : State) :
    searchFound p index d s.freed = actOnWindow p index d (s.searched ⟨index, d⟩) := rfl

section
variable {α : Type} {row : Arrived α → Instr} {ans : α} {s : State} {p : ProcTxn} {index : BitVec 5}
  {d : Descriptor}
  (hgive : AnswerGives row ans s (report s (actOnWindow p index d (s.searched ⟨index, d⟩))))
include hgive

/-- An access forwarded after a search: the search counter shows in the job's record, the access in
none. -/
theorem searched_forwarded {addr : Word}
    (h : actOnWindow p index d (s.searched ⟨index, d⟩) = forwardTo p addr (s.searched ⟨index, d⟩)) :
    AnswerEndsIn row ans s { s.searched ⟨index, d⟩ with proc := ⟨some ⟨p, .forward addr⟩, none⟩ }
      s.writer.owed [] := by
  rw [h] at hgive
  exact ⟨_, hgive, Reports.reported (.refl rfl)⟩

theorem searched_refused {kind : ErrorKind}
    (h : actOnWindow p index d (s.searched ⟨index, d⟩) = (s.searched ⟨index, d⟩).refuse kind p) :
    RefusedAnswer row ans s (s.searched ⟨index, d⟩) p kind := by
  rw [h] at hgive
  exact refusedAnswer_of hgive rfl rfl

end

/-- Settles O21: the descriptor refused, the window's handling by its kind and access right, FAULT, and
what makes a descriptor usable. -/
theorem detailReadAnswered : Obligations.DetailReadAnswered := by
  refine ⟨fun s p index w0 w1 m v hp hcur hport => ?_, fun page d => ?_⟩
  · intro d counted
    have hgives : ∀ ans, AnswerGives .detailReadAnswer ans s (report s (detailReadAnswer ans s)) :=
      fun ans => answerGives_of (fun _ => rfl) hp
    have hok := hgives (.ok v)
    have hfault := hgives .fault
    rw [detailReadAnswer_ok hport hcur] at hok
    rw [detailReadAnswer_fault hport hcur] at hfault
    have hfound : descUsable (pageBase s) d = true → AnswerGives .detailReadAnswer (.ok v) s
        (report s (actOnWindow p index d (s.searched ⟨index, d⟩))) := fun hu => by
      rw [if_pos hu] at hok
      exact hok
    refine ⟨fun hu => ?_, hfound, fun hu => ?_, ⟨_, hfault, searchFault_reports s _⟩⟩
    · rw [if_neg (by rw [hu]; decide)] at hok
      exact refusedAnswer_of hok rfl rfl
    · intro filled forwarded refused a
      have hrefused : ∀ kind, actOnWindow p index d (s.searched ⟨index, d⟩) =
          (s.searched ⟨index, d⟩).refuse kind p → refused kind :=
        fun kind => searched_refused (hfound hu)
      have hforwarded : ∀ addr, actOnWindow p index d (s.searched ⟨index, d⟩) =
          forwardTo p addr (s.searched ⟨index, d⟩) → forwarded addr :=
        fun addr => searched_forwarded (hfound hu)
      have hpass := fun hk => actOnWindow_pass (d := d) hk p index (s.searched ⟨index, d⟩)
      clear_value filled forwarded refused
      refine ⟨fun hk => ⟨?_, ?_⟩, fun hk => ⟨fun hr => ?_, fun hw hj => ?_⟩,
        fun hk => ⟨fun hr => ?_, fun hw => ?_⟩⟩
      · rintro (ha | ⟨ha, hw⟩)
        · exact hrefused _ ((hpass hk).trans (actOnPass_noAccess ha _))
        · exact hrefused _ ((hpass hk).trans ((actOnPass_readOnly ha _).trans (if_pos hw)))
      · rintro (ha | ⟨ha, hr⟩)
        · exact hforwarded _ ((hpass hk).trans (actOnPass_readWrite ha _))
        · exact hforwarded _ ((hpass hk).trans ((actOnPass_readOnly ha _).trans (if_neg (by rw [hr]; decide))))
      · exact hforwarded _ (actOnWindow_read (d := d) _ (.inl hk) hr _)
      · exact hrefused _ (actOnWindow_otherJournal (d := d) (s := s.searched ⟨index, d⟩) hk hw hj)
      · exact hforwarded _ (actOnWindow_read (d := d) _ (.inr hk) hr _)
      · exact hrefused _ (actOnWindow_ring_write (d := d) _ hk hw _)
  · rw [descUsable_iff, and_assoc, and_assoc]
    rfl

end Sys2Proof.Machine
end

section
/-! What the words of a control page write decide (R142, R143, R157, R159 to R161), and how the write is
decided on all of them together (R142). -/

namespace Sys2Proof.Machine

/-! ### A word by itself -/

theorem wholeWord_iff (w : WriteWord) : wholeWord w = true ↔ w.enables = 0xF#4 := beq_iff_eq

theorem wordDecision_partial {w : WriteWord} (h : w.enables ≠ 0xF#4) (s : State) (offset : Nat) :
    wordDecision s offset w = .refused .partialWord :=
  if_neg (mt (wholeWord_iff w).mp h)

theorem wordDecision_whole {w : WriteWord} (h : w.enables = 0xF#4) (s : State) (offset : Nat) :
    wordDecision s offset w = areaDecision s (pageWord offset) :=
  if_pos ((wholeWord_iff w).mpr h)

/-- The latched set: the job's journal and the stations' rings (R143). -/
theorem isLatched_iff (s : State) (d : BitVec 5) : isLatched s d = true ↔
    s.job.journal = some d ∨ ∃ k : StationId, s.stations[k].ring = some d := by
  unfold isLatched
  rw [Bool.or_eq_true, beq_iff_eq, any_stationOrder]
  exact or_congr_right (exists_congr fun k => beq_iff_eq)

theorem attachNames_iff (st : Station) (d : BitVec 5) :
    attachNames st d = true ↔ ∃ q, st.progress = .attaching d q := by
  unfold attachNames
  cases st.progress <;> simp

/-- The descriptors that an OPEN or an ATTACH in progress names (R143). -/
theorem isBeingRead_iff (s : State) (d : BitVec 5) : isBeingRead s d = true ↔
    (∃ q, s.job.opening = some (d, q)) ∨ ∃ k : StationId, ∃ q, s.stations[k].progress = .attaching d q := by
  unfold isBeingRead
  rw [Bool.or_eq_true, any_stationOrder]
  refine or_congr ?_ (exists_congr fun k => attachNames_iff s.stations[k] d)
  cases s.job.opening <;> simp [Prod.ext_iff]

/-! ### The areas (Table 12-4) -/

theorem pageWord_descriptor {offset : Nat} {d : BitVec 5} (hd : offset / 16 = d.toNat)
    (h : offset < 0x200) : pageWord offset = .table d := by
  rw [pageWord_table h, hd, BitVec.ofNat_toNat, BitVec.setWidth_eq]

theorem pageWord_unusedArea {offset : Nat} (h1 : 0x3C0 ≤ offset) (h2 : offset < 0x400) :
    pageWord offset = .unused := by
  unfold pageWord
  rw [if_neg (by omega), if_neg (by omega), if_neg (by omega), if_pos h2]

theorem pageWord_status {offset : Nat} (h : 0x400 ≤ offset) : pageWord offset = .status := by
  unfold pageWord
  rw [if_neg (by omega), if_neg (by omega), if_neg (by omega), if_neg (by omega)]

/-! ### The decision by area -/

section
variable {s : State} {k : StationId} {n : Fin 16}

theorem areaDecision_lockedStation (hn : n.val ≤ 12) (h : s.stations[k].feed ≠ .off) :
    areaDecision s (.station k n) = .refused .configLocked := by
  have hlocked : lockedWord n = true := decide_eq_true hn
  unfold areaDecision
  simp only [if_pos hlocked, if_neg h]

theorem areaDecision_busyStation (hn : n.val = 15) (h : s.stations[k].progress ≠ .idle) :
    areaDecision s (.station k n) = .retry := by
  obtain rfl : n = 15 := Fin.ext hn
  have hbusy : stationBusy s.stations[k] = true :=
    eq_true_of_ne_false (mt (stationBusy_iff _).mp h)
  unfold areaDecision
  simp only [if_pos hbusy]
  rfl

theorem areaDecision_lockedJob (hn : n.val = 0) (h : s.job.state ≠ .noJob) :
    areaDecision s (.job n) = .refused .configLocked := by
  obtain rfl : n = 0 := Fin.ext hn
  exact if_neg h

theorem areaDecision_busyJob (hn : n.val = 15) (h : s.job.opening ≠ none) :
    areaDecision s (.job n) = .retry := by
  obtain rfl : n = 15 := Fin.ext hn
  exact if_pos (Option.isSome_iff_ne_none.mpr h)

end

section
variable {w : WriteWord} (hw : w.enables = 0xF#4)
include hw

/-- A word of the descriptor table, by whether its descriptor is latched or being read (R143, log 28). -/
theorem tableWordDecided {s : State} {offset : Nat} {d : BitVec 5} (hd : offset / 16 = d.toNat)
    (h : offset < 0x200) : wordDecision s offset w =
      if isLatched s d then .refused .configLocked else if isBeingRead s d then .retry else .taken := by
  rw [wordDecision_whole hw, pageWord_descriptor hd h]
  rfl

/-- A whole word decides as the word of its data (R142). -/
theorem wordDecision_asWhole (s : State) (offset : Nat) :
    wordDecision s offset w = wordDecision s offset (asWhole w.data) := by
  rw [wordDecision_whole hw, wordDecision_whole rfl]

theorem stationWordDecided (s : State) (k : StationId) (n : Fin 16) :
    wordDecision s (stationBlockOffset k n.val) w = areaDecision s (.station k n) := by
  rw [wordDecision_whole hw, pageWord_station]

theorem jobWordDecided (s : State) (n : Fin 16) :
    wordDecision s (jobBlockOffset n.val) w = areaDecision s (.job n) := by
  rw [wordDecision_whole hw, pageWord_job]

end

/-! ### A write decided on all its words together (R142) -/

theorem exec_pageWrite {s : State} {r : Regions} {i : Instr} {t : WriteTxn} (hi : presentsWrite i t)
    (hp : PortTakes s r) (hb : inOneBlock (.write t) = true) (hpage : inPage r (byteAddr t.addr) = true) :
    exec i s = .next (report s (pageWrite t s)) := by
  obtain ⟨htk, hc, hr, -⟩ := hp
  rw [exec_presentsWrite hi, present_routed htk hc hb, routed_page (p := .write t) hr hpage]
  rfl

/-- Settles O23: one word by its area, and a write by the decisions on its words. -/
theorem pageWritesDecided : Obligations.PageWritesDecided := by
  refine ⟨fun s offset w => ⟨fun hw => wordDecision_partial hw s offset, fun hw =>
    ⟨fun d hd hlt => ⟨fun hl => ?_, fun hl hr => ?_, fun hl hr => ?_⟩, fun k n hoff => ?_, fun n hoff => ?_,
      fun h1 h2 => ?_, fun h => ?_⟩⟩, fun s r i t hi hp hb hpage => ?_⟩
  · rw [tableWordDecided hw hd hlt, if_pos ((isLatched_iff s d).mpr hl)]
  · rw [tableWordDecided hw hd hlt, if_neg (mt (isLatched_iff s d).mp hl),
      if_pos ((isBeingRead_iff s d).mpr hr)]
  · rw [tableWordDecided hw hd hlt, if_neg (mt (isLatched_iff s d).mp hl),
      if_neg (mt (isBeingRead_iff s d).mp hr)]
  · have harea := stationWordDecided hw s k n
    have htaken := stationDecision_taken (s := s) (k := k) (n := n) w.data
    rw [← wordDecision_asWhole hw] at htaken
    rw [show offset = stationBlockOffset k n.val from hoff]
    exact ⟨fun hn hf => harea.trans (areaDecision_lockedStation hn hf),
      fun hn hf => htaken (fun _ => hf) (by omega),
      fun hn hb => harea.trans (areaDecision_busyStation hn hb),
      fun hn hb => htaken (by omega) (fun _ => hb), fun hn => htaken (by omega) (by omega)⟩
  · have harea := jobWordDecided hw s n
    have htaken := jobDecision_taken (s := s) (n := n) w.data
    rw [← wordDecision_asWhole hw] at htaken
    rw [show offset = jobBlockOffset n.val from hoff]
    exact ⟨fun hn hj => harea.trans (areaDecision_lockedJob hn hj),
      fun hn hj => htaken (fun _ => hj) (by omega),
      fun hn ho => harea.trans (areaDecision_busyJob hn ho),
      fun hn ho => htaken (by omega) (fun _ => ho), fun h0 h15 => htaken (by omega) (by omega)⟩
  · rw [wordDecision_whole hw, pageWord_unusedArea h1 h2]
    rfl
  · rw [wordDecision_whole hw, pageWord_status h]
    rfl
  · obtain ⟨-, -, -, halign⟩ := id hp
    have hoff := pageOffset_eq halign hpage
    have hx := exec_pageWrite hi hp hb hpage
    intro offset ds
    have hsame : decisions s (pageOffset (byteAddr t.addr)) (txnWords t) = ds := by rw [hoff]
    refine ⟨fun pre post kind hds hpre => refusedFrom_of ?_, fun hds hretry => ?_, fun hds => ?_⟩
    · rw [hx, pageWrite_refused (hsame.trans hds) hpre]
    · rw [AnsweredRetry, hx, pageWrite_retry (hsame ▸ hds) (hsame ▸ hretry), report_answer]
      rfl
    · rw [exec_pageTaken hi hp hb hpage (hsame ▸ hds), hoff]

end Sys2Proof.Machine
end

section
/-! A status record that a command changes is marked (R163). -/

namespace Sys2Proof.Machine

/-- Every status record whose contents differ between `s` and `t` is marked in `t`. -/
def MarksChanges (s t : State) : Prop :=
  ∀ r, recordChanged s t r = true → t.writer.marks.get r = true

theorem recordChanged_iff (s t : State) (r : RecordId) : recordChanged s t r = true ↔
    recordLower s r ≠ recordLower t r ∨ recordUpper s r ≠ recordUpper t r := by
  unfold recordChanged
  rw [Bool.or_eq_true, bne_iff_ne, bne_iff_ne]

theorem marksChanges_of_shown {s t : State} (hj : t.job = s.job) (hs : t.stations = s.stations)
    (hb : t.breaks = s.breaks) (hp : t.stop = s.stop) (hg : t.gate = s.gate)
    (hw : t.writer.pending = s.writer.pending) (he : t.shadows.job = s.shadows.job)
    (hl : t.log = s.log) : MarksChanges s t := fun r hr => by
  rw [recordChanged_of_shown hj hs hb hp hg hw he hl] at hr
  cases hr

theorem report_marksChanges (s t : State) : MarksChanges s (report s t) := fun r hr => by
  rw [recordChanged_iff, recordLower_report, recordUpper_report, ← recordChanged_iff] at hr
  exact report_marks_changed s t r hr

theorem deferred_recordChanged (s t u : State) (late : List Requester) (r : RecordId) :
    recordChanged s (t.deferred late u) r = recordChanged s t r := by
  cases r <;> rfl

section Rows

variable {s t : State} (hp : s.porst = false)
include hp

/-- A row that does nothing under PORST_N. -/
theorem goOn_act_marksChanges {f : State → State} (h : goOn (s.act f) = .next t) :
    MarksChanges s t := by
  obtain rfl := Host.Outcome.next.inj h
  rw [act_running hp]
  exact report_marksChanges s (f s)

/-- An answer row. -/
theorem actAnswer_marksChanges {α : Type} {f : α → State → State} {a : Arrived α}
    (h : s.actAnswer f a = .next t) : MarksChanges s t := by
  rcases actAnswer_next h with rfl | ⟨late, x, -, rfl⟩
  · exact marksChanges_of_shown rfl rfl rfl rfl rfl rfl rfl rfl
  · intro r hr
    rw [deferred_recordChanged, act_running hp] at hr
    rw [deferred_writer, act_running hp]
    exact report_marksChanges s (f x s) r hr

end Rows

/-- A row by which the processor presents a transaction. -/
theorem presented_marksChanges {s t : State} {p : ProcTxn} (h : presented p s = .next t) :
    MarksChanges s t := by
  obtain rfl := Host.Outcome.next.inj h
  exact report_marksChanges s (present p s)

/-- The negation of BUSRST_N changes the boot loader and the line alone. -/
theorem busrstNegation_marksChanges (s : State) : MarksChanges s (busrstNegation s) := by
  unfold busrstNegation
  split
  · split
    · exact marksChanges_of_shown rfl rfl rfl rfl rfl rfl rfl rfl
    · rw [startPass_eq]
      exact marksChanges_of_shown rfl rfl rfl rfl rfl rfl rfl rfl
  · exact marksChanges_of_shown rfl rfl rfl rfl rfl rfl rfl rfl

/-- With PORST_N negated its negation is no event (log 2). -/
theorem porstNegation_negated {s : State} (hp : s.porst = false) (v : InputLevels) :
    porstNegation v s = s := if_neg (by rw [hp]; exact nofun)

/-- Every command but the two resets marks what it changes. -/
theorem exec_marksChanges {i : Instr} {s t : State} (hp : s.porst = false) (hpower : i ≠ .powerOnReset)
    (hbus : i ≠ .busReset) (h : exec i s = .next t) : MarksChanges s t := by
  cases i
  case powerOnReset => exact absurd rfl hpower
  case busReset => exact absurd rfl hbus
  case porstNegation v =>
    obtain rfl := (porstNegation_negated hp v).symm.trans (Host.Outcome.next.inj h)
    exact marksChanges_of_shown rfl rfl rfl rfl rfl rfl rfl rfl
  case busrstNegation =>
    obtain rfl := Host.Outcome.next.inj h
    exact busrstNegation_marksChanges s
  case readyChange k asserted =>
    obtain rfl := Host.Outcome.next.inj h
    exact marksChanges_of_shown rfl rfl rfl rfl rfl rfl rfl rfl
  case initWriteAnswer | scanReadAnswer | detailReadAnswer | forwardAnswer | journalWriteAnswer
      | postWriteAnswer | openComplete | attachComplete | replayReadAnswer | replayWriteAnswer
      | statusWriteAnswer | drainReadAnswer => exact actAnswer_marksChanges hp h
  case processorRead | processorWrite | journalWindowWrite | descriptorTableWrite | controlBlockWrite
      | breakFilterTimeWrite | breakPolarityWrite | ackTimeoutWrite | acknowledgeWrite
      | interruptEnableWrite | openJob | closeJob | jobBadCmd | attach | detach | reattach | hold | resume
      | clear | release | stationBadCmd => exact presented_marksChanges h
  all_goals exact goOn_act_marksChanges hp h

/-- Settles O3: the rows by kind, and what the comparison at a command's end adds. -/
theorem changedRecordIsMarked : Obligations.ChangedRecordIsMarked := by
  refine ⟨fun i s t r hp hpower hbus h hr => exec_marksChanges hp hpower hbus h r ?_,
    fun s t r => ⟨rfl, ?_⟩⟩
  · rw [recordChanged_iff]
    exact hr.imp Ne.symm Ne.symm
  · rw [report_marks_get, Bool.or_eq_true, recordChanged_iff]

end Sys2Proof.Machine
end

section
/-! The fields of the status records (section 12.4): words built up field by field from the lowest bit
on, and the records' words read as such. -/

namespace Sys2Proof.Machine

/-! ### Words made of fields -/

/-- The word stands for the number `v`, which lies below bit `top`. -/
def Spells (w : Word) (v top : Nat) : Prop := w.toNat = v ∧ v < 2 ^ top

theorem place_toNat {n pos : Nat} (h : 2 ^ pos * n < 2 ^ 32) : (place n pos).toNat = 2 ^ pos * n := by
  have hn : n < 2 ^ 32 := lt_of_le_of_lt (Nat.le_mul_of_pos_left n (by positivity)) h
  unfold place
  rw [BitVec.toNat_shiftLeft, BitVec.toNat_ofNat, Nat.mod_eq_of_lt hn, Nat.shiftLeft_eq, Nat.mul_comm,
    Nat.mod_eq_of_lt h]

/-- One more field above those that the word has. -/
theorem Spells.or_place {w : Word} {v top n pos width : Nat} (hw : Spells w v top) (htop : top ≤ pos)
    (hn : n < 2 ^ width) (hwidth : pos + width ≤ 32) :
    Spells (w ||| place n pos) (v + 2 ^ pos * n) (pos + width) := by
  obtain ⟨rfl, hlt⟩ := hw
  have hlow : w.toNat < 2 ^ pos := lt_of_lt_of_le hlt (Nat.pow_le_pow_right (by decide) htop)
  have hsum : w.toNat + 2 ^ pos * n < 2 ^ (pos + width) := by
    have hstep : 2 ^ pos * (n + 1) ≤ 2 ^ pos * 2 ^ width := Nat.mul_le_mul_left _ hn
    rw [pow_add]
    rw [Nat.mul_add] at hstep
    omega
  have hword : 2 ^ pos * n < 2 ^ 32 :=
    lt_of_lt_of_le (by omega) (Nat.pow_le_pow_right (by decide) hwidth)
  refine ⟨?_, hsum⟩
  rw [BitVec.toNat_or, place_toNat hword, Nat.or_comm, ← Nat.two_pow_add_eq_or_of_lt hlow, Nat.add_comm]

theorem spells_place {n width : Nat} (hn : n < 2 ^ width) (hwidth : width ≤ 32) :
    Spells (place n 0) n width := by
  have hzero : Spells 0#32 0 0 := ⟨rfl, by decide⟩
  have h := hzero.or_place (Nat.le_refl 0) hn (by omega)
  rwa [BitVec.zero_or, pow_zero, Nat.one_mul, Nat.zero_add, Nat.zero_add] at h

/-- A half word that stands for itself. -/
theorem spells_setWidth (x : BitVec 16) : Spells (x.setWidth 32) x.toNat 16 := by
  refine ⟨?_, x.isLt⟩
  rw [BitVec.toNat_setWidth, Nat.mod_eq_of_lt (by have := x.isLt; omega)]

/-- A word of two half words. -/
theorem halves_toNat (x y : BitVec 16) : (x.setWidth 32 ||| place y.toNat 16).toNat =
    x.toNat + 2 ^ 16 * y.toNat :=
  ((spells_setWidth x).or_place (Nat.le_refl _) y.isLt (Nat.le_refl _)).1

theorem flag_lt (b : Bool) : b.toNat < 2 ^ 1 := b.toNat_lt

/-- Words 3 to 7 of a record that has three fields. -/
theorem threeWords_rest (a b c : Word) (i : Fin 8) (h : 3 ≤ i.val) :
    (#v[a, b, c, 0#32, 0#32, 0#32, 0#32, 0#32] : Record)[i] = 0#32 := by
  match i, h with
  | 3, _ | 4, _ | 5, _ | 6, _ | 7, _ => rfl

/-- Words 1 to 7 of a record that has one. -/
theorem oneWord_rest (a : Word) (i : Fin 8) (h : 1 ≤ i.val) :
    (#v[a, 0#32, 0#32, 0#32, 0#32, 0#32, 0#32, 0#32] : Record)[i] = 0#32 := by
  match i, h with
  | 1, _ | 2, _ | 3, _ | 4, _ | 5, _ | 6, _ | 7, _ => rfl

/-! ### The codes fit their fields -/

theorem errorKindCode_lt (k : ErrorKind) : errorKindCode k < 2 ^ 8 := by cases k <;> decide

theorem originCode_lt (o : Origin) : originCode o < 2 ^ 4 := by cases o <;> decide

theorem jobStateCode_lt (j : JobState) : jobStateCode j < 2 ^ 4 := by cases j <;> decide

theorem resultCode_lt (r : Result) : resultCode r < 2 ^ 4 := by cases r <;> decide

theorem feedCode_lt (f : Feed) : feedCode f < 2 ^ 4 := by cases f <;> simp [feedCode]

theorem lossCode_lt (f : Feed) : lossCode f < 2 ^ 4 := by
  cases f with
  | lost r => cases r <;> decide
  | _ => simp [lossCode]

theorem driveCode_lt (d : Drive) : driveCode d < 2 ^ 4 := by cases d <;> simp [driveCode]

theorem holdReasonCode_lt (d : Drive) : holdReasonCode d < 2 ^ 4 := by
  cases d with
  | held r => cases r <;> decide
  | _ => simp [holdReasonCode]

theorem faultCodeField_lt (d : Drive) : faultCodeField d < 2 ^ 8 := by
  cases d with
  | fault c => cases c <;> simp [faultCodeField, faultCodeValue]
  | _ => simp [faultCodeField]

theorem driveCodeField_lt (d : Drive) : driveCodeField d < 2 ^ 8 := by
  cases d with
  | fault c =>
    cases c with
    | driveFault b => exact b.isLt
    | _ => decide
  | _ => simp [driveCodeField]

/-! ### The error log (Table 12-9) -/

/-- The station field: 7 stands for NONE. -/
theorem stationField_lt (st : Option StationId) :
    (match st with | some k => k.val | none => 7) < 2 ^ 4 := by
  cases st with
  | none => decide
  | some k => exact Nat.lt_trans k.isLt (by decide)

theorem errorLogWord0 (e : LogEntry) : ((errorLogRecord (some e))[0]).toNat =
    errorKindCode e.kind + 2 ^ 8 * originCode e.origin + 2 ^ 12 * e.write.toNat
      + 2 ^ 16 * (match e.station with | some k => k.val | none => 7) + 2 ^ 24 * e.overflow.toNat :=
  (((((spells_place (errorKindCode_lt e.kind) (by decide)).or_place (pos := 8) (by decide)
    (originCode_lt e.origin) (by decide)).or_place (pos := 12) (by decide) (flag_lt e.write)
    (by decide)).or_place (pos := 16) (by decide) (stationField_lt e.station) (by decide)).or_place
    (pos := 24) (by decide) e.overflow.isLt (by decide)).1

/-! ### The job status record (Table 12-7) -/

theorem jobWord0 (s : State) : ((jobStatusLower s)[0]).toNat =
    jobStateCode s.job.state + 2 ^ 4 * (!s.stop.qualified).toNat
      + 2 ^ 8 * s.job.opening.isSome.toNat + 2 ^ 12 * s.job.lastCommand.toNat
      + 2 ^ 16 * resultCode s.job.lastResult + 2 ^ 24 * s.job.mask.toNat :=
  ((((((spells_place (jobStateCode_lt s.job.state) (by decide)).or_place (pos := 4) (by decide)
    (flag_lt _) (by decide)).or_place (pos := 8) (by decide) (flag_lt _) (by decide)).or_place (pos := 12)
    (by decide) s.job.lastCommand.isLt (by decide)).or_place (pos := 16) (by decide)
    (resultCode_lt s.job.lastResult) (by decide)).or_place (pos := 24) (by decide) s.job.mask.isLt
    (by decide)).1

/-- The slots, and the latched journal with its flag. -/
theorem jobWord2 {s : State} (h : s.job.slots ≤ 16384) : ((jobStatusLower s)[2]).toNat =
    s.job.slots + (match s.job.journal with | some d => 2 ^ 16 * d.toNat + 2 ^ 23 | none => 0) := by
  have hslots : Spells (place s.job.slots 0) s.job.slots 16 :=
    spells_place (lt_of_le_of_lt h (by decide)) (by decide)
  show (place s.job.slots 0 ||| match s.job.journal with
    | some d => place d.toNat 16 ||| place 1 23
    | none => 0#32).toNat = _
  cases s.job.journal with
  | none => exact (congrArg BitVec.toNat BitVec.or_zero).trans hslots.1
  | some d =>
    have hlatched := (hslots.or_place (pos := 16) (by decide) d.isLt (by decide)).or_place (n := 1)
      (pos := 23) (width := 1) (by decide) (by decide) (by decide)
    dsimp only
    rw [← BitVec.or_assoc, hlatched.1]
    omega

theorem jobWord4 {s : State} (h : s.gate.entries.length ≤ 4) : ((jobStatusLower s)[4]).toNat =
    s.gate.entries.length + 2 ^ 8 * s.gate.members.toNat :=
  ((spells_place (width := 8) (lt_of_le_of_lt h (by decide)) (by decide)).or_place (pos := 8) (by decide)
    s.gate.members.isLt (by decide)).1

theorem gateEntryWord_toNat (e : Option GateEntry) : (gateEntryWord e).toNat =
    match e with
    | some e => e.seq.toNat + 2 ^ 16 * e.doneSet.toNat
    | none => 0 := by
  cases e with
  | none => rfl
  | some e =>
    exact ((spells_setWidth e.seq).or_place (pos := 16) (by decide) e.doneSet.isLt (by decide)).1

/-! ### The station status records (Table 12-8) -/

theorem stationBusy_eq (st : Station) : stationBusy st = (st.progress != .idle) := by
  unfold stationBusy
  cases st.progress <;> rfl

theorem stationWord0 (st : Station) (brk : Monitor) : ((stationStatusLower st brk)[0]).toNat =
    feedCode st.feed + 2 ^ 4 * lossCode st.feed + 2 ^ 8 * driveCode st.drive
      + 2 ^ 12 * holdReasonCode st.drive + 2 ^ 16 * faultCodeField st.drive
      + 2 ^ 24 * driveCodeField st.drive :=
  ((((((spells_place (feedCode_lt st.feed) (by decide)).or_place (pos := 4) (by decide)
    (lossCode_lt st.feed) (by decide)).or_place (pos := 8) (by decide) (driveCode_lt st.drive)
    (by decide)).or_place (pos := 12) (by decide) (holdReasonCode_lt st.drive) (by decide)).or_place
    (pos := 16) (by decide) (faultCodeField_lt st.drive) (by decide)).or_place (pos := 24) (by decide)
    (driveCodeField_lt st.drive) (by decide)).1

theorem stationWord1 (st : Station) (brk : Monitor) : ((stationStatusLower st brk)[1]).toNat =
    st.lastCommand.toNat + 2 ^ 4 * resultCode st.lastResult + 2 ^ 8 * (st.progress != .idle).toNat
      + 2 ^ 12 * brk.qualified.toNat := by
  rw [← stationBusy_eq]
  exact ((((spells_place st.lastCommand.isLt (by decide)).or_place (pos := 4) (by decide)
    (resultCode_lt st.lastResult) (by decide)).or_place (pos := 8) (by decide) (flag_lt _)
    (by decide)).or_place (pos := 12) (by decide) (flag_lt _) (by decide)).1

theorem stationWord3 {st : Station} (h : st.capacity ≤ 1024) (brk : Monitor) :
    ((stationStatusLower st brk)[3]).toNat = st.done.toNat + 2 ^ 16 * st.capacity :=
  ((spells_setWidth st.done).or_place (pos := 16) (width := 16) (by decide)
    (lt_of_le_of_lt h (by decide)) (by decide)).1

/-! ### Pending bits (Table 9-3) -/

theorem eventBit_toNat (k : StationId) : (eventBit k).toNat = 2 ^ k.val := by
  revert k
  decide

theorem commandDoneBit_toNat (k : StationId) : (commandDoneBit k).toNat = 2 ^ (8 + k.val) := by
  revert k
  decide

/-- Settles O4: the records word by word, the codes' tables, the pending bits and the places. -/
theorem statusRecordsHoldFields : Obligations.StatusRecordsHoldFields := by
  refine ⟨fun s => ⟨rfl, rfl⟩, fun s => ⟨rfl, fun h => ?_, fun e h => ?_⟩, fun s hfit hgate => ?_,
    fun s k hfit => ?_, rfl, rfl, rfl, rfl, rfl, rfl, rfl, fun c => rfl,
    fun k => ⟨eventBit_toNat k, commandDoneBit_toNat k⟩, rfl, rfl, rfl, rfl, rfl, rfl, rfl, rfl,
    fun k => rfl⟩
  · show errorLogRecord s.log = _
    rw [h]
    rfl
  · rw [show recordLower s .errorLog = errorLogRecord (some e) from congrArg errorLogRecord h]
    exact ⟨errorLogWord0 e, rfl, rfl, threeWords_rest _ _ _⟩
  · obtain ⟨hslots, -⟩ := hfit
    exact ⟨jobWord0 s, halves_toNat _ _, jobWord2 hslots, halves_toNat _ _, jobWord4 hgate,
      gateEntryWord_toNat _, gateEntryWord_toNat _, gateEntryWord_toNat _, _, rfl, gateEntryWord_toNat _,
      oneWord_rest _⟩
  · obtain ⟨-, hcapacity⟩ := hfit
    exact ⟨stationWord0 _ _, stationWord1 _ _, halves_toNat _ _, stationWord3 (hcapacity k) _,
      halves_toNat _ _, halves_toNat _ _, halves_toNat _ _, rfl, rfl⟩

end Sys2Proof.Machine
end

section
/-! The ends of the boot read: the strap defaults with what is logged of them (R183 to R185), and the boot
record that is latched or refused (R185). -/

namespace Sys2Proof.Machine

/-! ### The strap defaults -/

/-- The boot loader DONE with the strap defaults, the pass begun unless BUSRST_N holds it back (Table 11-2,
R185, R186). -/
def Boot.strapped (b : Boot) (busrst : Bool) : Boot :=
  { b with
    state := .done
    latched := some (strapRegions b.strapB b.strapA)
    pass := if busrst then b.pass else some 0 }

/-- The pass begins unless BUSRST_N holds it back, as the statements ask it. -/
theorem passBegun_eq (busrst : Bool) (pass : Option Nat) :
    (if busrst = false then some 0 else pass) = if busrst then pass else some 0 := by
  cases busrst <;> rfl

theorem takeStraps_eq (s : State) : takeStraps s = { s with boot := s.boot.strapped s.busrst } := by
  unfold takeStraps
  rw [bootDone_eq, passBegun_eq]
  rfl

/-- What a boot read that fails logs (R185). -/
def bootBadEntry (cause : BootCause) (got : List Byte) : LogEntry :=
  ⟨.bootBad, .boot, false, bootCauseCode cause, bootFirstWord got, none, 0#8⟩

theorem logBootBad_eq (c : BootCause) (s : State) : logBootBad c s = { s with
    log := loggedWith s.log (bootBadEntry c s.boot.bytes), writer := s.writer.logged s.log } :=
  logError_eq ..

/-- The strap defaults taken with a cause logged into an empty log: from `u`, which is `s` but for the boot
loader and the time. -/
theorem endsIn_strapsLogged {i : Instr} {s u : State} {c : BootCause}
    (h : exec i s = .next (report s (takeStraps (logBootBad c u)))) (hw : u.writer = s.writer)
    (hl : u.log = s.log) (hempty : s.log = none) :
    EndsIn i s { u with boot := u.boot.strapped u.busrst, log := some (bootBadEntry c u.boot.bytes) }
      (s.writer.owed.plus .errorLog (placeFlag true 18)) [.errorLog] := by
  rw [takeStraps_eq, logBootBad_eq, hw, hl, hempty] at h
  refine ⟨_, h, ?_⟩
  have hreports := reports_logged (s := s)
    (v := { u with boot := u.boot.strapped u.busrst, log := some (bootBadEntry c u.boot.bytes) })
    (w := { u with
      boot := u.boot.strapped u.busrst, log := some (bootBadEntry c u.boot.bytes)
      writer := s.writer.logged none }) rfl (by rw [hempty])
  rwa [hempty] at hreports

/-- The strap defaults taken with nothing logged. -/
theorem endsIn_straps {i : Instr} {s u : State} (h : exec i s = .next (report s (takeStraps u)))
    (hw : u.writer = s.writer) :
    EndsIn i s { u with boot := u.boot.strapped u.busrst } s.writer.owed [] := by
  rw [takeStraps_eq] at h
  exact endsIn_same h hw

/-! ### The rows that end in them -/

/-- A bus that becomes free in time does not time out (log 2). -/
theorem exec_bootBusBusyTimeout_free {s : State} {t : Nat} (hs : s.boot.state = .waiting)
    (hb : busFreeInTime s.boot.bus = some t) : exec .bootBusBusyTimeout s = .next s := by
  refine goOn_unchanged ?_
  unfold bootBusBusyTimeout
  rw [hs, hb]

section
variable {s : State} (hp : s.porst = false)
include hp

/-- A row that does nothing under PORST_N does its effect otherwise. -/
theorem goOn_act_running {f : State → State} {t : State} (h : f s = t) :
    goOn (s.act f) = .next (report s t) := by
  rw [act_running hp, h]
  rfl

theorem exec_bootBusBusyTimeout (hs : s.boot.state = .waiting) (hb : busFreeInTime s.boot.bus = none) :
    exec .bootBusBusyTimeout s = .next (report s (takeStraps (logBootBad .busBusy
      (s.reach (s.boot.waitingSince + Config.bootBusWait))))) :=
  goOn_act_running hp (by unfold bootBusBusyTimeout; rw [hs, hb])

variable (hs : s.boot.state = .reading)
include hs

theorem exec_bootDeviceNack :
    exec .bootDeviceNack s = .next (report s (takeStraps (driving [.stop] s))) :=
  goOn_act_running hp (if_pos hs)

theorem exec_bootAddressNack : exec .bootAddressNack s =
    .next (report s (takeStraps (logBootBad .addressNack (driving [.stop] s)))) :=
  goOn_act_running hp (if_pos hs)

theorem exec_bootStretchTimeout (got : List Byte) : exec (.bootStretchTimeout got) s =
    .next (report s (takeStraps (logBootBad .stretch (driving [] (withBytes got s))))) :=
  goOn_act_running hp (if_pos hs)

theorem exec_bootArbitrationLost (lost : LostAttempt) (ha : 4 ≤ s.boot.attempts) :
    exec (.bootArbitrationLost lost) s =
      .next (report s (takeStraps (logBootBad .arbitration (driving [] (withBytes lost.got s))))) :=
  goOn_act_running hp ((if_pos hs).trans (if_neg (by omega)))

/-- A record that passes the tests is latched (R185). -/
theorem exec_bootReadEnd_latched {b : Vector Byte 16} (hb : bootFailure b = none) : exec (.bootReadEnd b) s =
    .next (bootDone (bootRegions b) (driving [] (withBytes b.toList s))) := by
  refine goOn_unshown hp ((if_pos hs).trans ?_) ?_
  · rw [hb]
  · rw [bootDone_eq]
    exact report_of_shown rfl rfl rfl rfl rfl rfl rfl rfl

theorem exec_bootReadEnd_refused {b : Vector Byte 16} {c : BootCause} (hb : bootFailure b = some c) :
    exec (.bootReadEnd b) s =
      .next (report s (takeStraps (logBootBad c (driving [] (withBytes b.toList s))))) := by
  refine goOn_act_running hp ((if_pos hs).trans ?_)
  rw [hb]

end

/-- Settles O15: the bus that stays busy, and the four ways in which an attempt fails. -/
theorem strapDefaultsTaken : Obligations.StrapDefaultsTaken := by
  intro s got lost hp hlog page ends
  have hpage : strapRegions s.boot.strapB s.boot.strapA = ⟨page, 0x40000000#32, 8⟩ := strapRegions_eq _ _
  have hlogged : ∀ {i : Instr} {u : State} {c : BootCause} {n : Nat},
      exec i s = .next (report s (takeStraps (logBootBad c u))) →
      u = { s with now := u.now, boot := { s.boot with bytes := u.boot.bytes, drives := u.boot.drives } } →
      bootCauseCode c = BitVec.ofNat 32 n →
      ends i u.now u.boot.bytes u.boot.drives (some n) := by
    intro i u c n h hu hc
    have hends := endsIn_strapsLogged h (by rw [hu]) (by rw [hu]) hlog
    rw [hu] at hends
    unfold Boot.strapped bootBadEntry at hends
    rw [hpage, hc] at hends
    exact hends
  refine ⟨fun hs hb => ⟨fun hn => ?_, fun t ht hf => ?_⟩, fun hs => ⟨?_, ?_, ?_, fun ha => ?_⟩, fun l => rfl⟩
  · exact hlogged (exec_bootBusBusyTimeout hp hs ((busFreeInTime_none hb).mpr hn)) rfl rfl
  · obtain ⟨u, hu, hfirst⟩ := busFirstFree_of hf
    exact exec_bootBusBusyTimeout_free hs ((busFreeInTime_iff hb u).mpr ⟨hfirst, by omega⟩)
  · have hends := endsIn_straps (exec_bootDeviceNack hp hs) rfl
    unfold Boot.strapped at hends
    rw [show strapRegions (driving [.stop] s).boot.strapB (driving [.stop] s).boot.strapA = _
      from hpage] at hends
    show EndsIn _ s { s with log := none, boot := _ } _ _
    rw [← hlog]
    exact hends
  · exact hlogged (exec_bootAddressNack hp hs) rfl rfl
  · exact hlogged (exec_bootStretchTimeout hp hs got) rfl rfl
  · exact hlogged (exec_bootArbitrationLost hp hs lost ha) rfl rfl

/-! ### The tests of the boot record (Table 11-1) -/

theorem windowSpaceSize_pos (code : Nat) : 0 < windowSpaceSize code := by
  unfold windowSpaceSize
  positivity

theorem alignedTo_iff (a : Word) (size : Nat) : alignedTo a size = true ↔ a.toNat % size = 0 :=
  beq_iff_eq

/-- The page and the window are aligned, and the window's size is in its limit. -/
def Regions.Aligned (r : Regions) : Prop :=
  r.page.toNat % 2048 = 0 ∧ r.sizeCode ≤ 10 ∧ r.window.toNat % (1048576 * 2 ^ r.sizeCode) = 0

/-- The page and the window share no byte. -/
def Regions.Apart (r : Regions) : Prop :=
  ∀ a : Nat, ¬((r.page.toNat ≤ a ∧ a < r.page.toNat + 2048)
    ∧ (r.window.toNat ≤ a ∧ a < r.window.toNat + 1048576 * 2 ^ r.sizeCode))

theorem regions_apart_iff (r : Regions) : r.Apart ↔
    blocksMeet r.page.toNat pageSize r.window.toNat (windowSpaceSize r.sizeCode) = false := by
  rw [← Bool.not_eq_true, blocksMeet_iff (by decide) (windowSpaceSize_pos _)]
  exact not_exists.symm

/-- The two tests of alignment fail with one cause. -/
theorem regions_aligned_iff (r : Regions) : r.Aligned ↔ (!alignedTo r.page pageSize) = false
    ∧ (decide (10 < r.sizeCode) || !alignedTo r.window (windowSpaceSize r.sizeCode)) = false := by
  rw [Bool.or_eq_false_iff, Bool.not_eq_false', Bool.not_eq_false', decide_eq_false_iff_not, Nat.not_lt,
    alignedTo_iff, alignedTo_iff]
  exact Iff.rfl

section
variable {b : Vector Byte 16}

theorem bootFailure_signature (h : ¬(b[0] = 0x4B#8 ∧ b[1] = 0x36#8)) :
    bootFailure b = some .signature := if_pos (not_and_or.mp h)

variable (hsig : b[0] = 0x4B#8 ∧ b[1] = 0x36#8)
include hsig

theorem bootFailure_check (h : byteSum b.toList ≠ 0#8) : bootFailure b = some .check :=
  (if_neg fun hbad => not_and_or.mpr hbad hsig).trans (if_pos h)

variable (hsum : byteSum b.toList = 0#8)
include hsum

theorem bootFailure_align (h : ¬(bootRegions b).Aligned) : bootFailure b = some .align := by
  rw [regions_aligned_iff, not_and_or, Bool.not_eq_false, Bool.not_eq_false] at h
  unfold bootFailure
  rw [if_neg fun hbad => not_and_or.mpr hbad hsig, if_neg (not_not_intro hsum)]
  rcases h with hpage | hwindow
  · exact if_pos hpage
  · rw [if_pos hwindow, ite_self]

variable (haligned : (bootRegions b).Aligned)
include haligned

/-- Past the alignment the overlap decides. -/
theorem bootFailure_aligned : bootFailure b =
    if blocksMeet (bootRegions b).page.toNat pageSize (bootRegions b).window.toNat
      (windowSpaceSize (bootRegions b).sizeCode) then some .overlap else none := by
  obtain ⟨hpage, hwindow⟩ := (regions_aligned_iff _).mp haligned
  unfold bootFailure
  rw [if_neg fun hbad => not_and_or.mpr hbad hsig, if_neg (not_not_intro hsum), hpage,
    hwindow]
  rfl

theorem bootFailure_overlap (h : ¬(bootRegions b).Apart) : bootFailure b = some .overlap := by
  rw [regions_apart_iff, Bool.not_eq_false] at h
  rw [bootFailure_aligned hsig hsum haligned, if_pos h]

theorem bootFailure_none (h : (bootRegions b).Apart) : bootFailure b = none := by
  rw [bootFailure_aligned hsig hsum haligned, (regions_apart_iff _).mp h]
  rfl

end

theorem bootFirstWord_vector (b : Vector Byte 16) :
    bootFirstWord b.toList = b[3] ++ b[2] ++ b[1] ++ b[0] := by
  unfold bootFirstWord wordOfBytes
  simp

/-- Settles O16: the record that passes every test, and the first test that fails. -/
theorem bootRecordDecides : Obligations.BootRecordDecides := by
  intro s b hp hs hlog page window w signature sums aligned apart defaults
  have hrefused : ∀ {c : BootCause} {n : Nat}, bootFailure b = some c →
      bootCauseCode c = BitVec.ofNat 32 n → defaults n := by
    intro c n hb hc
    obtain ⟨t, ht, hframe, howed, -, -, -, -, hmarked⟩ :=
      endsIn_strapsLogged (exec_bootReadEnd_refused hp hs hb) rfl rfl hlog
    refine ⟨t, ht, ?_, ?_, ?_, ?_, ?_, howed, hmarked _ (List.mem_singleton.mpr rfl), ?_⟩
    · rw [hframe]; rfl
    · rw [hframe]; rfl
    · rw [hframe]; rfl
    · rw [hframe]; rfl
    · rw [hframe, ← hc, ← bootFirstWord_vector]; rfl
    · rw [hframe]; rfl
  refine ⟨fun hsig hsum hal hap => ?_, fun hsig => hrefused (bootFailure_signature hsig) rfl,
    fun hsig hsum => hrefused (bootFailure_check hsig hsum) rfl,
    fun hsig hsum hal => hrefused (bootFailure_align hsig hsum hal) rfl,
    fun hsig hsum hal hap => hrefused (bootFailure_overlap hsig hsum hal hap) rfl⟩
  have hlatched := exec_bootReadEnd_latched hp hs (bootFailure_none hsig hsum hal hap)
  rw [bootDone_eq, passBegun_eq] at hlatched
  exact ⟨_, hlatched, rfl, rfl, hlog, rfl, rfl, rfl⟩

end Sys2Proof.Machine
end

section
/-! The acknowledge word and the interrupt enable mask (R167, R168). -/

namespace Sys2Proof.Machine

/-! ### The rows -/

/-- The two rows are control block writes of one word (log 8). -/
theorem exec_acknowledgeWrite {s : State} {r : Regions} (v : Word) (hp : PortTakes s r) :
    exec (.acknowledgeWrite v) s = .next (report s
      ((acknowledge v (setJobShadow s 2 v)).forwardsPage (writeUpTo s (jobBlockOffset 2) [] v))) :=
  exec_pageWordTaken hp (by decide) (by decide)
    (jobDecision_taken (n := 2) v (fun h => absurd h (by decide)) (fun h => absurd h (by decide)))
    (congrArg (applyWord v s) (pageWord_job 2))

theorem exec_interruptEnableWrite {s : State} {r : Regions} (m : Word) (hp : PortTakes s r) :
    exec (.interruptEnableWrite m) s = .next (report s
      ((setJobShadow s 1 m).forwardsPage (writeUpTo s (jobBlockOffset 1) [] m))) :=
  exec_pageWordTaken hp (by decide) (by decide)
    (jobDecision_taken (n := 1) m (fun h => absurd h (by decide)) (fun h => absurd h (by decide)))
    (congrArg (applyWord m s) (pageWord_job 1))

/-! ### The acknowledge (R167, R171) -/

theorem and_errorLoggedBit (w : Word) : w &&& errorLoggedBit ≠ 0#32 ↔ w.getLsbD 18 = true := by
  rw [show errorLoggedBit = BitVec.twoPow 32 18 from rfl, BitVec.and_twoPow]
  cases w.getLsbD 18 <;> decide

/-- Clearing the bits that are set in both words is clearing those set in the one written. -/
theorem and_not_and_self (a v : Word) : a &&& ~~~(v &&& a) = a &&& ~~~v := by
  ext i hi
  simp only [BitVec.getElem_and, BitVec.getElem_not]
  cases a[i] <;> simp

/-- Where clearing the bits of `v` changes nothing, none of them is set. -/
theorem and_eq_zero_of_cleared {a v : Word} (h : a &&& ~~~v = a) : v &&& a = 0#32 := by
  calc v &&& a = v &&& (a &&& ~~~v) := by rw [h]
    _ = (v &&& ~~~v) &&& a := by rw [BitVec.and_comm a, ← BitVec.and_assoc]
    _ = 0#32 := by rw [BitVec.and_not_self]; exact BitVec.zero_and

theorem acknowledge_eq (v : Word) (s : State) : acknowledge v s = { s with
    writer := { s.writer with pending := s.writer.pending &&& ~~~v }
    log := if v.getLsbD 18 && s.writer.pending.getLsbD 18 then none else s.log } := by
  unfold acknowledge
  simp only [and_not_and_self, and_errorLoggedBit, BitVec.getLsbD_and]
  split <;> rfl

/-! ### Marks of the summary (R163) -/

/-- A change of the pending word or of the enable mask marks the summary. -/
theorem report_marks_summary {s t : State}
    (h : t.writer.pending ≠ s.writer.pending ∨ t.shadows.job[1] ≠ s.shadows.job[1]) :
    (report s t).writer.marks.get .summary = true := by
  refine report_marks_changed s t .summary ?_
  unfold recordChanged
  rw [Bool.or_eq_true, bne_iff_ne]
  refine .inl fun hsame => ?_
  rcases h with h | h
  · exact h (congrArg (fun r : Record => r[0]) hsame).symm
  · exact h (congrArg (fun r : Record => r[1]) hsame).symm

/-- Settles O26: the acknowledge as one update of the pending word and the log. -/
theorem acknowledgeClearsPending : Obligations.AcknowledgeClearsPending := by
  intro s r v hp
  refine ⟨_, exec_acknowledgeWrite v hp, ?_⟩
  rw [acknowledge_eq]
  refine ⟨rfl, rfl, rfl, rfl, rfl, fun hcleared => report_marks_summary (.inl fun hsame => ?_), rfl, rfl⟩
  exact hcleared (and_eq_zero_of_cleared hsame)

/-! ### The interrupt line (R168) -/

theorem and_ne_zero_iff (a b : Word) :
    a &&& b ≠ 0#32 ↔ ∃ n : Nat, a.getLsbD n = true ∧ b.getLsbD n = true := by
  have hzero : a &&& b = 0#32 ↔ ∀ n : Nat, ¬(a.getLsbD n = true ∧ b.getLsbD n = true) := by
    simp only [← Bool.and_eq_true, ← BitVec.getLsbD_and, Bool.not_eq_true]
    exact ⟨fun h n => by rw [h, BitVec.getLsbD_zero],
      fun h => BitVec.eq_of_getLsbD_eq fun n _ => by rw [h, BitVec.getLsbD_zero]⟩
  rw [Ne, hzero, not_forall_not]

theorem irqAsserted_iff (s : State) : s.irqAsserted = true ↔
    ∃ n : Nat, s.writer.pending.getLsbD n = true ∧ s.shadows.job[1].getLsbD n = true := by
  unfold State.irqAsserted
  rw [bne_iff_ne, and_ne_zero_iff]
  rfl

theorem enableMask_written (s : State) (m : Word) : (setJobShadow s 1 m).shadows.job[1] = m :=
  Vector.getElem_set_self _

/-- Settles O27: the line as a function of the two words, the mask's reset values, and its write. -/
theorem enableMaskDrivesInterrupt : Obligations.EnableMaskDrivesInterrupt := by
  refine ⟨irqAsserted_iff, fun s => ⟨⟨_, rfl, rfl⟩, fun hp hb => ⟨_, exec_busReset hp hb, rfl⟩⟩,
    fun s r m hp => ⟨_, exec_interruptEnableWrite m hp, rfl, rfl, ?_, fun hm => ?_, rfl⟩⟩
  · rw [irqAsserted_iff, report_shadows]
    show (∃ n, _ ∧ (setJobShadow s 1 m).shadows.job[1].getLsbD n = true) ↔ _
    rw [enableMask_written]
    rfl
  · refine report_marks_summary (.inr fun hsame => hm ?_)
    exact (enableMask_written s m).symm.trans hsame

end Sys2Proof.Machine
end

section
/-! The status writer: the writes that a STATUS grant begins (R163, R164, R186), and the answers that they
get, in the initialization pass and after it (R165, R186, R187). -/

namespace Sys2Proof.Machine

/-! ### A write answered FAULT (R165, R169) -/

/-- The owed bits of a write come back to its record, which is marked again (R165). -/
def Writer.returned (u : Writer) (w : StatusWrite) : Writer :=
  match w.record with
  | some r => { u with marks := u.marks.set r true, owed := u.owed.plus r w.owed }
  | none => u

theorem returnOwed_eq (w : StatusWrite) (s : State) :
    returnOwed w s = s.setWriter (s.writer.returned w) := by
  unfold returnOwed Writer.returned
  cases w.record <;> rfl

theorem Writer.logged_marked (u : Writer) (log : Option LogEntry) :
    (u.logged log).marks.get .errorLog = true := Marks.get_set_self u.marks .errorLog true

/-- What a status write's FAULT logs (R170). -/
def statusFaultEntry (w : StatusWrite) (t : MemTxn) : LogEntry :=
  ⟨.memFault, .status, true, t.addr, txnFirstData t, recordStation w.record, 0#8⟩

theorem statusFault_eq (w : StatusWrite) (t : MemTxn) (s : State) : statusFault w t s =
    { s.freed with
      log := loggedWith s.log (statusFaultEntry w t)
      writer := Writer.logged (Writer.returned { s.writer with write := none } w) s.log } := by
  unfold statusFault
  rw [logError_eq, returnOwed_eq]
  rfl

/-- The writer after a write answered FAULT, with whatever the step changes besides. -/
theorem statusFault_reported {s v : State} {w : StatusWrite} {t : MemTxn}
    (hv : v.writer = (statusFault w t s).writer) :
    (report s v).writer.write = none ∧ (report s v).writer.pending = s.writer.pending
    ∧ (∀ r, w.record = some r → (report s v).writer.marks.get r = true)
    ∧ (report s v).writer.owed = (match w.record with
        | some r => s.writer.owed.plus r w.owed
        | none => s.writer.owed).logged s.log
    ∧ (report s v).writer.marks.get .errorLog = true
    ∧ (report s v).writer.position = s.writer.position := by
  have hmarks : ∀ r, v.writer.marks.get r = true → (report s v).writer.marks.get r = true := fun r hr => by
    rw [report_marks_get, hr, Bool.true_or]
  rw [statusFault_eq] at hv
  rw [report_writer_write, report_writer_pending, report_writer_owed, report_writer_position]
  have hlogged : v.writer.marks.get .errorLog = true := by
    rw [hv]
    exact Writer.logged_marked _ _
  unfold Writer.returned at hv
  cases hr : w.record with
  | none =>
    rw [hr] at hv
    exact ⟨by rw [hv]; rfl, by rw [hv]; rfl, nofun, by rw [hv]; rfl, hmarks _ hlogged, by rw [hv]; rfl⟩
  | some id =>
    rw [hr] at hv
    refine ⟨by rw [hv]; rfl, by rw [hv]; rfl, fun r h => hmarks r ?_, by rw [hv]; rfl, hmarks _ hlogged,
      by rw [hv]; rfl⟩
    rw [← Option.some.inj h, hv]
    exact Marks.get_set_kept _ _ _ (Marks.get_set_self _ _ _)

/-! ### The answers (R164, R165, R186) -/

section
variable {s : State} {i : Nat} {w : StatusWrite} {txn : MemTxn}
  (hport : s.port.inFlight = some ⟨.status, txn⟩) (hwrite : s.writer.write = some w)
include hport hwrite

section
variable (hpass : s.boot.pass = none)
include hpass

theorem statusWriteAnswer_half {addr : Word} {r : Record} (hupper : w.upper = some (addr, r)) :
    statusWriteAnswer .ok s = secondHalf w addr r s := by
  unfold statusWriteAnswer
  rw [hpass, statusInFlight_eq hport hwrite]
  dsimp only
  rw [hupper]

theorem statusWriteAnswer_done (hupper : w.upper = none) :
    statusWriteAnswer .ok s = setPendingBits w.owed (endStatusWrite s) := by
  unfold statusWriteAnswer
  rw [hpass, statusInFlight_eq hport hwrite]
  dsimp only
  rw [hupper]

theorem statusWriteAnswer_fault : statusWriteAnswer .fault s = statusFault w txn s := by
  unfold statusWriteAnswer
  rw [hpass, statusInFlight_eq hport hwrite]

end

section
variable (hpass : s.boot.pass = some i)
include hpass

theorem initWriteAnswer_half {addr : Word} {r : Record} (hupper : w.upper = some (addr, r)) :
    initWriteAnswer .ok s = passGoesOn (i + 1) (secondHalf w addr r s) := by
  unfold initWriteAnswer
  rw [hpass, statusInFlight_eq hport hwrite]
  dsimp only
  rw [hupper]

theorem initWriteAnswer_done (hupper : w.upper = none) :
    initWriteAnswer .ok s = passGoesOn (i + 1) (setPendingBits w.owed (endStatusWrite s)) := by
  unfold initWriteAnswer
  rw [hpass, statusInFlight_eq hport hwrite]
  dsimp only
  rw [hupper]

/-- A first half answered FAULT ends its record's write (log 13). -/
theorem initWriteAnswer_fault : initWriteAnswer .fault s =
    passGoesOn (if w.upper.isSome then i + 2 else i + 1) (statusFault w txn s) := by
  unfold initWriteAnswer
  rw [hpass, statusInFlight_eq hport hwrite]
  dsimp only
  cases w.upper <;> rfl

end
end

/-! ### The pass goes on (R187) -/

/-- From `s` the pass goes on with write `n`, or ends after its last; of the port, the log and the writer
nothing is said. -/
def PassGoesOn (s : State) (n : Nat) (t : State) : Prop :=
  t = { s with boot := t.boot, taking := t.taking, port := t.port, log := t.log, writer := t.writer }
    ∧ (n ≤ 61 → t.boot = { s.boot with pass := some n } ∧ t.taking = s.taking)
    ∧ (61 < n → t.boot = { s.boot with pass := none } ∧ t.taking = true)

theorem passGoesOn_reported {s u : State} (n : Nat)
    (hu : u = { s with port := u.port, log := u.log, writer := u.writer }) :
    PassGoesOn s n (report s (passGoesOn n u)) := by
  unfold passGoesOn PassGoesOn lastPassWrite
  split
  · next hlast =>
    refine ⟨by rw [hu]; rfl, fun h => absurd h (by omega), fun _ => ⟨by rw [hu]; rfl, rfl⟩⟩
  · next hmore =>
    refine ⟨by rw [hu]; rfl, fun _ => ⟨by rw [hu]; rfl, by rw [hu]; rfl⟩, fun h => absurd h hmore⟩

theorem passGoesOn_port (n : Nat) (s : State) : (passGoesOn n s).port = s.port := by
  rw [passGoesOn_frame]

theorem passGoesOn_log (n : Nat) (s : State) : (passGoesOn n s).log = s.log := by
  rw [passGoesOn_frame]

theorem passGoesOn_writer (n : Nat) (s : State) : (passGoesOn n s).writer = s.writer := by
  rw [passGoesOn_frame]

/-- Settles O17: the end of a write, the second half that follows the first, and FAULT. -/
theorem passWriteAnswered : Obligations.PassWriteAnswered := by
  intro s i w txn hp hpass hwrite hport goes
  have hgives : ∀ {a t}, initWriteAnswer a s = t → AnswerGives .initWriteAnswer a s (report s t) :=
    fun ht => ht ▸ answerGives_of (fun _ => rfl) hp
  refine ⟨fun hupper => ?_, fun addr r hupper => ?_, ?_⟩
  · refine ⟨_, hgives (initWriteAnswer_done hport hwrite hpass hupper), passGoesOn_reported _ rfl, ?_⟩
    rw [report_writer_pending, report_writer_write, report_port, report_log, passGoesOn_port, passGoesOn_log,
      passGoesOn_writer]
    exact ⟨rfl, rfl, rfl, rfl⟩
  · refine ⟨_, hgives (initWriteAnswer_half hport hwrite hpass hupper), passGoesOn_reported _ rfl, ?_⟩
    rw [report_writer_pending, report_writer_write, report_port, report_log, passGoesOn_port, passGoesOn_log,
      passGoesOn_writer]
    exact ⟨rfl, rfl, rfl, rfl⟩
  · obtain ⟨hnone, hpending, hmarked, howed, hlogged, -⟩ := statusFault_reported (s := s)
      (passGoesOn_writer (if w.upper.isSome then i + 2 else i + 1) (statusFault w txn s))
    refine ⟨_, hgives (initWriteAnswer_fault hport hwrite hpass), passGoesOn_reported _ ?_, hpending, hnone,
      ?_, hmarked, howed, hlogged, ?_⟩
    · rw [statusFault_eq]
      rfl
    · rw [report_port, passGoesOn_port, statusFault_eq]
      rfl
    · rw [report_log, passGoesOn_log, statusFault_eq]
      rfl

end Sys2Proof.Machine
end

section
/-! The writes that a STATUS grant begins, in the initialization pass and after it (R163, R164, R186), and
the answers that they get after it (R164, R165). -/

namespace Sys2Proof.Machine

/-! ### A status record's write begins (R163, R164) -/

/-- At a grant, with the owed sets and the place in the cycle that the choice leaves. -/
def State.choosing (s : State) (owed : Owed) (position : Fin 8) : State :=
  { s.granting with writer := { s.writer with owed := owed, position := position } }

theorem recordLower_choosing (s : State) (owed : Owed) (position : Fin 8) (id : RecordId) :
    recordLower (s.choosing owed position) id = recordLower s id := by cases id <;> rfl

theorem recordUpper_choosing (s : State) (owed : Owed) (position : Fin 8) (id : RecordId) :
    recordUpper (s.choosing owed position) id = recordUpper s id := by cases id <;> rfl

/-- The write of record `id` goes from `s` to its place in the page, with what `owed` says is owed to it. -/
def BeginsRecord (s : State) (id : RecordId) (owed : Owed) (t : State) : Prop :=
  let upper := (recordUpper s id).map fun u =>
    (pageBase s + BitVec.ofNat 32 (recordOffset id) + 32#32, u)
  t.writer.write = some ⟨some id, owed.get id, upper⟩
    ∧ t.writer.owed = owed.set id 0#32 ∧ t.writer.pending = s.writer.pending
    ∧ t.writer.marks = s.writer.marks.set id false
    ∧ ∃ p, p = s.granting.writing .status .status (pageBase s + BitVec.ofNat 32 (recordOffset id))
          (recordLower s id)
      ∧ t = { p with writer := t.writer
                     port := { p.port with hold := if upper.isSome then some .status else none } }

theorem beginRecord_frame (r : RecordId) (s : State) : beginRecord r s =
    { s with port := (beginRecord r s).port, writer := (beginRecord r s).writer } := rfl

theorem beginRecord_pending (r : RecordId) (s : State) :
    (beginRecord r s).writer.pending = s.writer.pending := rfl

theorem report_beginRecord (id : RecordId) (s : State) (owed : Owed) (position : Fin 8) :
    report s (beginRecord id (s.choosing owed position)) = beginRecord id (s.choosing owed position) := by
  have hpending := beginRecord_pending id (s.choosing owed position)
  rw [beginRecord_frame]
  exact report_of_shown rfl rfl rfl rfl rfl hpending rfl rfl

theorem beginRecord_begins (id : RecordId) (s : State) (owed : Owed) (position : Fin 8) :
    BeginsRecord s id owed (beginRecord id (s.choosing owed position)) := by
  unfold BeginsRecord beginRecord
  simp only [recordLower_choosing, recordUpper_choosing]
  exact ⟨rfl, rfl, rfl, rfl, _, rfl, rfl⟩

/-- A grant that begins a record's write. -/
theorem exec_beginsRecord {s : State} {id : RecordId} {owed : Owed} {position : Fin 8}
    (h : GrantedNext s .status)
    (hg : grantTo .status s.granting = beginRecord id (s.choosing owed position)) :
    ∃ t, exec .arbiterGrant s = .next t ∧ BeginsRecord s id owed t ∧ t.writer.position = position := by
  refine ⟨beginRecord id (s.choosing owed position), ?_, beginRecord_begins id s owed position, rfl⟩
  rw [arbiterGrant_granted h, hg, report_beginRecord]

/-! ### The choice after the pass (R163) -/

/-- The distance of a place of the cycle from the one after the last chosen. -/
def cycleRank (position i : Fin 8) : Nat := (i - (position + 1)).val

/-- The cycle, from the place after the last chosen on. -/
def cycleFrom (p : Fin 8) : List (Fin 8) := [p + 1, p + 2, p + 3, p + 4, p + 5, p + 6, p + 7, p]

theorem cycleFrom_rises (p : Fin 8) :
    (cycleFrom p).Pairwise fun a b => cycleRank p a < cycleRank p b := by
  revert p
  decide

theorem cycleFrom_complete (p i : Fin 8) : i ∈ cycleFrom p := by
  revert p i
  decide

theorem chooseRecord_summary {w : Writer} (h : w.marks.summary = true) :
    chooseRecord w = some (.summary, w.position) := if_pos h

theorem chooseRecord_cycle {w : Writer} {i : Fin 8} (hs : w.marks.summary = false)
    (hi : w.marks.get (cycleRecord i) = true)
    (hbefore : ∀ j, cycleRank w.position j < cycleRank w.position i →
      w.marks.get (cycleRecord j) = false) : chooseRecord w = some (cycleRecord i, i) := by
  have hfind : (cycleFrom w.position).find? (fun j => w.marks.get (cycleRecord j)) = some i :=
    find_of_rising (cycleRank w.position) hi hbefore _ (cycleFrom_rises _) (cycleFrom_complete _ i)
  have hfirst := congrArg (Option.map fun j => (cycleRecord j, j)) hfind
  exact (if_neg (by rw [hs]; exact nofun)).trans hfirst

theorem grantStatus_chosen {s : State} {id : RecordId} {p : Fin 8} (hpass : s.boot.pass = none)
    (h : chooseRecord s.writer = some (id, p)) :
    grantTo .status s.granting = beginRecord id (s.choosing s.writer.owed p) := by
  have hafter : grantTo .status s.granting = grantStatus s.granting := by
    unfold grantTo
    rw [show s.granting.boot.pass = none from hpass]
  rw [hafter]
  unfold grantStatus
  rw [show chooseRecord s.granting.writer = some (id, p) from h]
  rfl

/-! ### The initialization pass (R186) -/

theorem grantPass_due {s : State} {n : Nat} (hpass : s.boot.pass = some n) :
    grantTo .status s.granting = grantPass n s.granting := by
  unfold grantTo
  rw [show s.granting.boot.pass = some n from hpass]

theorem Owed.plus_zero (o : Owed) (r : RecordId) : o.plus r 0#32 = o := by
  unfold Owed.plus
  rw [BitVec.or_zero]
  cases r with
  | station k => exact congrArg (fun v => { o with stations := v }) (vector_set_get o.stations k)
  | summary => rfl
  | errorLog => rfl
  | job => rfl

/-- A pass write of a status record, with the bits that the pass owes to it. -/
theorem grantPass_record {s : State} {n : Nat} {r : RecordId} (h : passWrite n = .record r) :
    grantPass n s.granting =
      beginRecord r (s.choosing (s.writer.owed.plus r (passOwed s r)) s.writer.position) := by
  unfold grantPass
  rw [h]
  cases r <;> rfl

/-- A pass write that is not a status record. -/
theorem exec_beginsPlain {s : State} {offset : Nat} {words : Record} (h : GrantedNext s .status)
    (hg : grantTo .status s.granting = beginPlain offset words s.granting) :
    exec .arbiterGrant s = .next
      { s.granting.writing .status .status (pageBase s + BitVec.ofNat 32 offset) words with
        writer := { s.writer with write := some ⟨none, 0#32, none⟩ } } := by
  rw [arbiterGrant_granted h, hg]
  exact congrArg Host.Outcome.next (report_of_shown rfl rfl rfl rfl rfl rfl rfl rfl)

theorem passWrite_table {n : Nat} (h : n < 16) : passWrite n = .table n := if_pos h

theorem passWrite_zeroArea {n : Nat} (h1 : 45 ≤ n) (h2 : n < 61) : passWrite n = .zeroArea n := by
  unfold passWrite
  rw [if_neg (by omega), if_neg (by omega), if_neg (by omega), if_neg (by omega), if_neg (by omega),
    if_neg (by omega), if_pos h2]

theorem passWrite_stationBlock (k : StationId) (h : Fin 2) :
    passWrite (16 + 2 * k.val + h.val) = .stationBlock k (h.val == 1) := by
  have hk := k.isLt
  have hh := h.isLt
  unfold passWrite
  rw [if_neg (by omega), if_pos (by omega), show (16 + 2 * k.val + h.val) % 2 = h.val by omega]
  congr 1
  apply Fin.ext
  simp only [Fin.ofNat]
  omega

theorem passWrite_jobBlock (h : Fin 2) : passWrite (28 + h.val) = .jobBlock (h.val == 1) := by
  have hh := h.isLt
  unfold passWrite
  rw [if_neg (by omega), if_neg (by omega), if_pos (by omega), show (28 + h.val) % 2 = h.val by omega]

theorem passWrite_station (k : StationId) : passWrite (32 + 2 * k.val) = .record (.station k) := by
  have hk := k.isLt
  unfold passWrite
  rw [if_neg (by omega), if_neg (by omega), if_neg (by omega), if_neg (by omega), if_pos (by omega)]
  congr 2
  apply Fin.ext
  simp only [Fin.ofNat]
  omega

/-- Half `h` of a control block, its eight words in order. -/
theorem blockHalf_eq (b : Block) (h : Fin 2) :
    blockHalf b (h.val == 1) = Vector.ofFn fun j : Fin 8 => b[8 * h.val + j.val] := by
  match h with
  | 0 | 1 => rfl

/-- The half of a block in the page (Table 12-4). -/
theorem halfOffset_eq (h : Fin 2) : (if (h.val == 1) = true then 32 else 0) = 32 * h.val := by
  match h with
  | 0 | 1 => rfl

/-- The place in the page of the writes that are not status records. -/
theorem passOffset_low {n : Nat} (h : n < 30) : passOffset n = 32 * n := if_pos h

theorem passOffset_zeroArea {n : Nat} (h1 : 45 ≤ n) (h2 : n < 61) :
    passOffset n = 0x420 + 32 * (n - 30) := by
  unfold passOffset
  rw [if_neg (by omega), if_pos h2]

/-- The writes of the pass that are not status records, by their place in it. -/
theorem grantPass_zero {n : Nat} (s : State) (h : n < 16 ∨ (45 ≤ n ∧ n < 61)) :
    grantPass n s = beginPlain (passOffset n) (Vector.replicate 8 0#32) s := by
  unfold grantPass
  rcases h with h | ⟨h1, h2⟩
  · rw [passWrite_table h, passOffset_low (by omega)]
    rfl
  · rw [passWrite_zeroArea h1 h2, passOffset_zeroArea h1 h2]
    rfl

theorem grantPass_stationBlock (s : State) (k : StationId) (h : Fin 2) :
    grantPass (16 + 2 * k.val + h.val) s = beginPlain (passOffset (16 + 2 * k.val + h.val))
      (Vector.ofFn fun j : Fin 8 => s.shadows.stations[k][8 * h.val + j.val]) s := by
  have hk := k.isLt
  have hh := h.isLt
  unfold grantPass
  rw [passWrite_stationBlock, passOffset_low (by omega), ← blockHalf_eq]
  dsimp only
  rw [halfOffset_eq]
  congr 1
  omega

theorem grantPass_jobBlock (s : State) (h : Fin 2) :
    grantPass (28 + h.val) s = beginPlain (passOffset (28 + h.val))
      (Vector.ofFn fun j : Fin 8 => s.shadows.job[8 * h.val + j.val]) s := by
  have hh := h.isLt
  unfold grantPass
  rw [passWrite_jobBlock, passOffset_low (by omega), ← blockHalf_eq]
  dsimp only
  rw [halfOffset_eq]
  congr 1
  omega

/-- A grant of the pass that begins a status record's write. -/
theorem exec_beginsPassRecord {s : State} {n : Nat} {r : RecordId} (h : GrantedNext s .status)
    (hpass : s.boot.pass = some n) (hn : passWrite n = .record r) :
    ∃ t, exec .arbiterGrant s = .next t
      ∧ BeginsRecord s r (s.writer.owed.plus r (passOwed s r)) t
      ∧ t.writer.position = s.writer.position :=
  exec_beginsRecord h ((grantPass_due hpass).trans (grantPass_record hn))

/-- Bit 18 is owed to the error log's record when the log is full. -/
theorem passOwed_errorLog (s : State) : s.writer.owed.plus .errorLog (passOwed s .errorLog) =
    if s.log = none then s.writer.owed else s.writer.owed.plus .errorLog (placeFlag true 18) := by
  unfold passOwed
  cases s.log with
  | none => exact Owed.plus_zero _ _
  | some e => rfl

/-! ### The answers after the pass (R164, R165) -/

theorem report_secondHalf (w : StatusWrite) (addr : Word) (r : Record) (s : State) :
    report s (secondHalf w addr r s) = secondHalf w addr r s :=
  report_of_shown rfl rfl rfl rfl rfl rfl rfl rfl

/-- Settles O44: the grant by the pass and the choice, and the answer by its kind. -/
theorem statusWritesGrantedAndAnswered : Obligations.StatusWritesGrantedAndAnswered := by
  refine ⟨fun s h => ?_, fun s w txn hp hpass hwrite hport => ?_⟩
  · intro begins place
    refine ⟨fun hpass hs => exec_beginsRecord h (grantStatus_chosen hpass (chooseRecord_summary hs)),
      fun i hpass hs hi hbefore =>
        exec_beginsRecord h (grantStatus_chosen hpass (chooseRecord_cycle hs hi hbefore)),
      fun n hpass => ?_⟩
    intro owed begun plain half
    have hplain : ∀ words, grantPass n s.granting = beginPlain (passOffset n) words s.granting →
        plain words := fun words hw => exec_beginsPlain h ((grantPass_due hpass).trans hw)
    refine ⟨fun hn => hplain _ (grantPass_zero _ hn), fun k i hn => hplain _ ?_, fun i hn => hplain _ ?_,
      fun hn => ?_, fun k hn => ?_, fun hn => ?_, fun hn => ?_⟩
    · rw [hn]
      exact grantPass_stationBlock s.granting k i
    · rw [hn]
      exact grantPass_jobBlock s.granting i
    · have hbegins := exec_beginsPassRecord h hpass (r := .job) (by rw [hn]; rfl)
      rwa [show passOwed s .job = 0#32 from rfl, Owed.plus_zero] at hbegins
    · have hbegins := exec_beginsPassRecord h hpass (r := .station k) (by rw [hn, passWrite_station])
      rwa [show passOwed s (.station k) = 0#32 from rfl, Owed.plus_zero] at hbegins
    · have hbegins := exec_beginsPassRecord h hpass (r := .errorLog) (by rw [hn]; rfl)
      rwa [passOwed_errorLog] at hbegins
    · exact exec_beginsPassRecord h hpass (r := .summary) (by rw [hn]; rfl)
  · have hgives : ∀ {a t}, statusWriteAnswer a s = t → AnswerGives .statusWriteAnswer a s (report s t) :=
      fun ht => ht ▸ answerGives_of (fun _ => rfl) hp
    refine ⟨fun addr r hupper => ?_, fun hupper => ?_, ?_⟩
    · have hhalf := hgives (statusWriteAnswer_half hport hwrite hpass hupper)
      rw [report_secondHalf] at hhalf
      exact hhalf
    · exact ⟨_, hgives (statusWriteAnswer_done hport hwrite hpass hupper), rfl, rfl, rfl, rfl,
        fun hset => report_marks_summary (.inl hset), rfl⟩
    · obtain ⟨hnone, hpending, hmarked, howed, hlogged, hpos⟩ :=
        statusFault_reported (s := s) (w := w) (t := txn) rfl
      refine ⟨_, hgives (statusWriteAnswer_fault hport hwrite hpass), hnone, hpending, hmarked, howed, hlogged,
        hpos, ?_, ?_⟩
      · rw [report_log, statusFault_eq]
        rfl
      · rw [statusFault_eq]
        rfl

end Sys2Proof.Machine
end

section
/-! The arbiter (R174 to R177): the requests that stand, and the transactions of Table 10-1 that a grant
puts on the port. -/

namespace Sys2Proof.Machine

/-! ### The port is free, or carries a requester's transaction -/

theorem portFree_iff (s : State) : portFree s = true ↔ s.port.inFlight = none ∧ s.port.hold = none := by
  unfold portFree
  rw [Bool.and_eq_true, Option.isNone_iff_eq_none, Option.isNone_iff_eq_none]

theorem inFlightFor_false_iff (s : State) (r : Requester) :
    inFlightFor s r = false ↔ ∀ m, s.port.inFlight ≠ some ⟨r, m⟩ := by
  refine ⟨fun h m hm => ?_, fun h => Bool.eq_false_iff.mpr fun hr => ?_⟩
  · rw [inFlightFor_eq hm] at h
    exact Bool.false_ne_true h.symm
  · obtain ⟨m, hm⟩ := inFlightFor_some hr
    exact h m hm

/-! ### Standing requests (R174, Table 10-2) -/

theorem anyMarked_iff (m : Marks) : anyMarked m = true ↔ ∃ r, m.get r = true := by
  have hstations : (m.stations != 0#6) = true ↔ ∃ k : StationId, m.get (.station k) = true := by
    rw [bne_iff_ne, ne_eq, stationSet_eq_zero_iff, not_forall]
    exact exists_congr fun k => iff_of_eq (Bool.not_eq_false _)
  unfold anyMarked
  simp only [Bool.or_eq_true, hstations]
  constructor
  · rintro (((h | h) | h) | ⟨k, h⟩)
    · exact ⟨.summary, h⟩
    · exact ⟨.errorLog, h⟩
    · exact ⟨.job, h⟩
    · exact ⟨.station k, h⟩
  · rintro ⟨r, h⟩
    cases r with
    | summary => exact .inl (.inl (.inl h))
    | errorLog => exact .inl (.inl (.inr h))
    | job => exact .inl (.inr h)
    | station k => exact .inr ⟨k, h⟩

theorem statusStands_iff (s : State) : statusStands s = true ↔
    s.writer.write = none ∧ (s.boot.pass ≠ none ∨ (s.taking = true ∧ ∃ r, s.writer.marks.get r = true)) := by
  unfold statusStands
  rw [Bool.and_eq_true, Bool.or_eq_true, Bool.and_eq_true, Option.isNone_iff_eq_none,
    Option.isSome_iff_ne_none, anyMarked_iff]

theorem attachStands_iff (st : Station) :
    attachStands st = true ↔ ∃ d q, st.progress = .attaching d q := by
  unfold attachStands
  cases st.progress with
  | attaching d q => exact iff_of_true rfl ⟨d, q, rfl⟩
  | idle => exact iff_of_false Bool.false_ne_true nofun
  | releasing => exact iff_of_false Bool.false_ne_true nofun

theorem replayStands_iff (s : State) :
    replayStands s = true ↔ ∃ t, s.replay.turn = some t ∧ t.copy = none := by
  unfold replayStands
  cases s.replay.turn with
  | none => exact iff_of_false Bool.false_ne_true nofun
  | some t =>
    refine ⟨fun h => ⟨t, rfl, Option.isNone_iff_eq_none.mp h⟩, ?_⟩
    rintro ⟨_, ⟨⟩, h⟩
    exact Option.isNone_iff_eq_none.mpr h

/-- The work for which a requester asks for the port. -/
def asks (s : State) : Requester → Bool
  | .transit => s.proc.current.isSome
  | .commandJob => s.job.opening.isSome
  | .commandStation k => attachStands s.stations[k]
  | .status => statusStands s
  | .drain k => s.links[k].drain.isSome
  | .replay => replayStands s

theorem standing_eq (s : State) (r : Requester) : standing s r = (!inFlightFor s r && asks s r) := by
  cases r <;> rfl

/-- A request stands while the port does not carry its requester's transaction, for the work that asks
for it. -/
theorem standing_iff {s : State} {r : Requester} {made : Prop} (h : asks s r = true ↔ made) :
    standing s r = true ↔ (∀ m, s.port.inFlight ≠ some ⟨r, m⟩) ∧ made := by
  rw [standing_eq, Bool.and_eq_true, Bool.not_eq_true', inFlightFor_false_iff, h]

/-! ### What a grant puts on the port (Table 10-1) -/

theorem exec_arbiterGrant_busy {s : State} (h : s.port.inFlight ≠ none ∨ s.port.hold ≠ none) :
    exec .arbiterGrant s = .next s := by
  have hbusy : portFree s = false := Bool.eq_false_iff.mpr fun hfree =>
    h.elim (· ((portFree_iff s).mp hfree).1) (· ((portFree_iff s).mp hfree).2)
  show Host.Outcome.next (s.act arbiterGrant) = _
  cases hp : s.porst with
  | true => rw [act_reset hp]
  | false => rw [act_running hp, arbiterGrant_busy hbusy, report_self]

/-- A grant whose transaction changes the port alone marks no record. -/
theorem exec_arbiterGrant_port {s : State} {r : Requester} {p : Port} (h : GrantedNext s r)
    (hg : grantTo r s.granting = { s with port := p }) :
    exec .arbiterGrant s = .next { s with port := p } := by
  rw [arbiterGrant_granted h, hg]
  exact congrArg Host.Outcome.next (report_of_shown rfl rfl rfl rfl rfl rfl rfl rfl)

/-- The transit group's transaction is that of the work in progress. -/
theorem exec_arbiterGrant_transit {s : State} {c : Access} (h : GrantedNext s .transit)
    (hcur : s.proc.current = some c) :
    exec .arbiterGrant s = .next (s.granting.carry .transit (transitTxn s c)) := by
  refine exec_arbiterGrant_port h ?_
  unfold grantTo
  rw [show s.granting.proc.current = some c from hcur]
  rfl

theorem exec_arbiterGrant_job {s : State} {d : BitVec 5} {q : Seq} (h : GrantedNext s .commandJob)
    (hopen : s.job.opening = some (d, q)) :
    exec .arbiterGrant s =
      .next (s.granting.reading .commandJob .command (descAddr s d.toNat) 4) := by
  refine exec_arbiterGrant_port h ?_
  unfold grantTo
  rw [show s.granting.job.opening = some (d, q) from hopen]
  rfl

theorem exec_arbiterGrant_station {s : State} {k : StationId} {d : BitVec 5} {q : Seq}
    (h : GrantedNext s (.commandStation k)) (hattach : s.stations[k].progress = .attaching d q) :
    exec .arbiterGrant s =
      .next (s.granting.reading (.commandStation k) .command (descAddr s d.toNat) 4) := by
  refine exec_arbiterGrant_port h ?_
  unfold grantTo
  dsimp only
  rw [show s.granting.stations[k].progress = .attaching d q from hattach]
  rfl

/-- The drain position follows the grant (R176). -/
theorem exec_arbiterGrant_drain {s : State} {k : StationId} {d : DrainRead}
    (h : GrantedNext s (.drain k)) (hdrain : s.links[k].drain = some d) :
    exec .arbiterGrant s = .next { s with port :=
      ⟨some ⟨.drain k, ⟨.drain, d.addr, .read 8⟩⟩, none, k, []⟩ } := by
  obtain ⟨-, -, hhold, -⟩ := id h
  refine exec_arbiterGrant_port h ?_
  unfold grantTo
  dsimp only
  rw [show s.granting.links[k].drain = some d from hdrain, ← hhold]
  rfl

/-- The turn holds the port from the grant of its read (R177). -/
theorem exec_arbiterGrant_replay {s : State} {t : ReplayTurn} (h : GrantedNext s .replay)
    (hturn : s.replay.turn = some t) :
    exec .arbiterGrant s = .next { s with port :=
      ⟨some ⟨.replay, ⟨.replay, turnReadAddr s.job t.seq, .read 8⟩⟩, some .replay, s.port.drainPos, []⟩ } := by
  refine exec_arbiterGrant_port h ?_
  unfold grantTo
  rw [show s.granting.replay.turn = some t from hturn]
  rfl

/-- Settles O43: a port that is not free, the late requests, the standing requests, and the grant to each
requester; the six grants to the transit group are one, its transaction being that of its work. -/
theorem arbiterGrantsInOrder : Obligations.ArbiterGrantsInOrder := by
  refine ⟨fun s => exec_arbiterGrant_busy, fun s t late r => ⟨deferred_frame t late s, ?_⟩,
    fun s => ?_, fun s => ?_⟩
  · rw [mem_deferred_late, portFree_iff, and_assoc]
  · intro stands
    exact ⟨standing_iff Option.isSome_iff_ne_none, standing_iff Option.isSome_iff_ne_none,
      standing_iff (statusStands_iff s), standing_iff (replayStands_iff s),
      fun k => ⟨standing_iff (attachStands_iff s.stations[k]),
        standing_iff Option.isSome_iff_ne_none⟩⟩
  · exact ⟨fun a n addr => exec_arbiterGrant_transit,
      fun t addr => exec_arbiterGrant_transit,
      fun p got => exec_arbiterGrant_transit,
      fun p d w0 w1 => exec_arbiterGrant_transit,
      fun p f => exec_arbiterGrant_transit,
      fun p k addr copy rest => exec_arbiterGrant_transit,
      fun d q => exec_arbiterGrant_job,
      fun k d q => exec_arbiterGrant_station,
      fun k d => exec_arbiterGrant_drain,
      fun t => exec_arbiterGrant_replay⟩

end Sys2Proof.Machine
end

section
/-! The initialization pass as BUSRST_N is negated (R186), and the attempts of the boot read: when one
begins and what it drives on SCL and SDA (R183), and how one whose arbitration is lost is made again
(R184). -/

namespace Sys2Proof.Machine

/-! ### The negation of BUSRST_N (R182, R186) -/

/-- The line is negated, and the boot read's state decides about the pass. -/
theorem exec_busrstNegation {s : State} (hp : s.porst = false) (hb : s.busrst = true) :
    exec .busrstNegation s = .next (startPass { s with busrst := false }) := by
  show Host.Outcome.next (busrstNegation s) = _
  unfold busrstNegation
  rw [if_pos hb, if_neg (by rw [hp]; exact nofun)]

/-- With the boot read DONE the pass begins. -/
theorem exec_busrstNegation_done {s : State} (hp : s.porst = false) (hb : s.busrst = true)
    (hd : s.boot.state = .done) : exec .busrstNegation s =
      .next { s with busrst := false, boot := { s.boot with pass := some 0 } } :=
  (exec_busrstNegation hp hb).trans (congrArg Host.Outcome.next (if_pos ⟨hd, rfl⟩))

/-- With the boot read still to end only the line changes. -/
theorem exec_busrstNegation_waits {s : State} (hp : s.porst = false) (hb : s.busrst = true)
    (hd : s.boot.state ≠ .done) : exec .busrstNegation s = .next { s with busrst := false } :=
  (exec_busrstNegation hp hb).trans (congrArg Host.Outcome.next (if_neg fun h => hd h.1))

/-! ### What the loader drives (R183) -/

/-- The address byte that announces a write. -/
theorem bootDevice_write : bootDevice ++ 0#1 = 0xA0#8 := rfl

/-- The address byte that announces a read. -/
theorem bootDevice_read : bootDevice ++ 1#1 = 0xA1#8 := rfl

/-- The exchange with the device's address and the direction bit as one byte. -/
theorem bootExchange_eq : bootExchange = [.start] ++ sendByte 0xA0#8 ++ sendByte 0x00#8
    ++ [.restart] ++ sendByte 0xA1#8
    ++ (List.replicate 15 (receiveByte false)).flatten ++ receiveByte true ++ [.stop] := by
  unfold bootExchange
  rw [bootDevice_write, bootDevice_read]

/-! ### When an attempt begins (R183) -/

/-- The state in which an attempt has begun `t` periods after the entry into WAITING. -/
def State.attempting (s : State) (t : Nat) : State :=
  { s with
    now := max s.now (s.boot.waitingSince + t)
    boot := { s.boot with state := .reading, bytes := [], drives := bootExchange } }

theorem bootAttempt_free {s : State} {t : Nat} (hs : s.boot.state = .waiting)
    (ht : busFreeInTime s.boot.bus = some t) : bootAttempt s = s.attempting t := by
  unfold bootAttempt
  rw [hs, ht]
  rfl

theorem bootAttempt_notFree {s : State} (hs : s.boot.state = .waiting)
    (hn : busFreeInTime s.boot.bus = none) : bootAttempt s = s := by
  unfold bootAttempt
  rw [hs, hn]

/-- No status record shows the boot loader or the time, so a row that changes these alone reports nothing
(R163). -/
theorem goOn_bootLoader {s : State} {f : State → State} {now : Nat} {b : Boot} (hp : s.porst = false)
    (hf : f s = { s with now := now, boot := b }) :
    goOn (s.act f) = .next { s with now := now, boot := b } :=
  goOn_unshown hp hf (report_of_shown rfl rfl rfl rfl rfl rfl rfl rfl)

/-- A bus first free within the 100 ms, or as they end, begins an attempt then (log 36). -/
theorem exec_bootAttempt_begins {s : State} {t : Nat} (hp : s.porst = false)
    (hs : s.boot.state = .waiting) (hwf : s.boot.bus.wellFormed = true)
    (hfirst : BusFirstFree s.boot.bus t) (ht : t ≤ 4800000) :
    exec .bootAttempt s = .next (s.attempting t) :=
  goOn_bootLoader hp (bootAttempt_free hs ((busFreeInTime_iff hwf t).mpr ⟨hfirst, ht⟩))

/-- A bus that is not free within the 100 ms begins none (log 2). -/
theorem exec_bootAttempt_notInTime {s : State} (hs : s.boot.state = .waiting)
    (hwf : s.boot.bus.wellFormed = true) (hn : ∀ t, t ≤ 4800000 → ¬BusFree s.boot.bus t) :
    exec .bootAttempt s = .next s :=
  goOn_unchanged (bootAttempt_notFree hs ((busFreeInTime_none hwf).mpr hn))

/-! ### A lost arbitration (R184) -/

/-- Below 4 counted attempts the loader waits for the bus again. -/
theorem bootArbitrationLost_again {s : State} (lost : LostAttempt) (hs : s.boot.state = .reading)
    (ha : s.boot.attempts < 4) : bootArbitrationLost lost s = { s with boot := { s.boot with
      state := .waiting, attempts := s.boot.attempts + 1, bytes := [], waitingSince := s.now
      bus := lost.bus, drives := [] } } :=
  (if_pos hs).trans (if_pos ha)

/-- Settles O14: the negation by the boot read's state, the attempt by the time at which the bus is first
free, the arbitration lost, and the acts' levels. -/
theorem passAndBootAttemptsBegin : Obligations.PassAndBootAttemptsBegin := by
  refine ⟨fun s hp hb => ⟨exec_busrstNegation_done hp hb, exec_busrstNegation_waits hp hb⟩,
    fun s lost hp => ?_, fun s => ?_⟩
  · intro bit sent data exchange
    have hexchange : bootExchange = exchange := bootExchange_eq
    refine ⟨fun t hs hwf hfirst => ⟨fun ht => ?_, fun ht => ?_⟩, fun hs hwf hnever => ?_,
      fun hs ha => ?_⟩
    · rw [exec_bootAttempt_begins hp hs hwf hfirst ht, State.attempting, hexchange]
    · exact exec_bootAttempt_notInTime hs hwf fun u hu => hfirst.2 u (by omega)
    · exact exec_bootAttempt_notInTime hs hwf fun u _ => hnever u
    · exact goOn_bootLoader hp (bootArbitrationLost_again lost hs ha)
  · exact congrArg (s.boot.drives.flatMap ·) (funext fun a => by cases a <;> rfl)

end Sys2Proof.Machine
end

section
/-! The operations that let no time pass: each keeps the queue and the time (log 3). -/

namespace Sys2Proof.Machine

/-- The queue and the time of `t` are those of `s`. -/
abbrev SameMoment (s t : State) : Prop := t.pending = s.pending ∧ t.now = s.now

theorem SameMoment.trans {s t u : State} (h : SameMoment s t) (g : SameMoment t u) : SameMoment s u :=
  ⟨g.1.trans h.1, g.2.trans h.2⟩

/-- An operation on each station of a list. -/
theorem foldl_moment {f : State → StationId → State} (h : ∀ s k, SameMoment s (f s k)) :
    ∀ (l : List StationId) (s : State), SameMoment s (l.foldl f s)
  | [], _ => ⟨rfl, rfl⟩
  | k :: l, s => (h s k).trans (foldl_moment h l (f s k))

/-! ### Break and stop inputs -/

@[simp] theorem breakEdge_moment (s : State) (k : StationId) : SameMoment s (s.breakEdge k) := by
  simp [SameMoment, State.breakEdge]

@[simp] theorem breakQualifies_moment (s : State) (k : StationId) :
    SameMoment s (s.breakQualifies k) := by
  unfold State.breakQualifies
  dsimp only
  split <;> simp [SameMoment]

@[simp] theorem breakDue_moment (s : State) (k : StationId) : SameMoment s (s.breakDue k) := by
  unfold State.breakDue
  split
  · split <;> simp [SameMoment]
  · simp [SameMoment]

theorem breakLineChange_moment (k : StationId) (level : Bool) (s : State) :
    SameMoment s (breakLineChange k level s) := by
  simp [SameMoment, breakLineChange]

@[simp] theorem stopQualifies_moment (s : State) : SameMoment s s.stopQualifies := by
  simp [SameMoment, State.stopQualifies]

theorem stopStation_moment (s : State) (k : StationId) : SameMoment s (s.stopStation k) := by
  simp [SameMoment, State.stopStation]

@[simp] theorem stopChanges_moment (s : State) : SameMoment s s.stopChanges := by
  unfold State.stopChanges
  split
  · exact stopQualifies_moment s
  · exact (stopQualifies_moment s).trans (foldl_moment stopStation_moment stationOrder _)

@[simp] theorem stopDue_moment (s : State) : SameMoment s s.stopDue := by
  unfold State.stopDue
  split
  · split <;> simp [SameMoment]
  · simp [SameMoment]

theorem stopLineChange_moment (level : Bool) (s : State) : SameMoment s (stopLineChange level s) := by
  simp [SameMoment, stopLineChange]

/-! ### Job commands -/

@[simp] theorem startOpen_moment (w : Word) (s : State) : SameMoment s (startOpen w s) := by
  unfold startOpen
  split <;> simp [SameMoment]

@[simp] theorem startClose_moment (s : State) : SameMoment s (startClose s) := by
  unfold startClose
  split <;> simp [SameMoment]

@[simp] theorem startJobCommand_moment (w : Word) (s : State) :
    SameMoment s (startJobCommand w s) := by
  unfold startJobCommand
  split <;> simp [SameMoment]

@[simp] theorem completeOpen_moment (index : BitVec 5) (start : Seq) (ans : ReadAnswer 4) (s : State) :
    SameMoment s (completeOpen index start ans s) := by
  cases ans with
  | fault => simp [SameMoment, completeOpen]
  | ok v =>
    unfold completeOpen
    dsimp only
    split
    · simp [SameMoment]
    · split <;> simp [SameMoment]

theorem openComplete_moment (ans : ReadAnswer 4) (s : State) : SameMoment s (openComplete ans s) := by
  unfold openComplete
  split <;> simp [SameMoment]

/-! ### Station commands -/

@[simp] theorem startAttach_moment (k : StationId) (w : Word) (s : State) :
    SameMoment s (startAttach k w s) := by
  unfold startAttach
  split
  · simp [SameMoment]
  · split <;> simp [SameMoment]

@[simp] theorem startDetach_moment (k : StationId) (s : State) : SameMoment s (startDetach k s) := by
  unfold startDetach
  split <;> simp [SameMoment]

@[simp] theorem startReattach_moment (k : StationId) (s : State) :
    SameMoment s (startReattach k s) := by
  unfold startReattach
  split <;> simp [SameMoment]

@[simp] theorem startHold_moment (k : StationId) (s : State) : SameMoment s (startHold k s) := by
  unfold startHold
  split <;> simp [SameMoment]

@[simp] theorem startResume_moment (k : StationId) (s : State) : SameMoment s (startResume k s) := by
  unfold startResume
  split <;> simp [SameMoment]

@[simp] theorem startClear_moment (k : StationId) (s : State) : SameMoment s (startClear k s) := by
  unfold startClear
  split <;> simp [SameMoment]

@[simp] theorem finishRelease_moment (k : StationId) (s : State) :
    SameMoment s (finishRelease k s) := by
  simp [SameMoment, finishRelease]

@[simp] theorem startRelease_moment (k : StationId) (s : State) : SameMoment s (startRelease k s) := by
  unfold startRelease
  dsimp only
  split
  · simp [SameMoment]
  · split <;> simp [SameMoment]

@[simp] theorem startStationCommand_moment (k : StationId) (w : Word) (s : State) :
    SameMoment s (startStationCommand k w s) := by
  unfold startStationCommand
  split <;> simp [SameMoment]

@[simp] theorem attachStation_moment (k : StationId) (index : BitVec 5) (seq : Seq) (d : Descriptor)
    (s : State) : SameMoment s (attachStation k index seq d s) := by
  simp [SameMoment, attachStation]

@[simp] theorem completeAttach_moment (k : StationId) (index : BitVec 5) (seq : Seq)
    (ans : ReadAnswer 4) (s : State) : SameMoment s (completeAttach k index seq ans s) := by
  cases ans with
  | fault => simp [SameMoment, completeAttach]
  | ok v =>
    unfold completeAttach
    dsimp only
    split <;> simp [SameMoment]

theorem attachComplete_moment (ans : ReadAnswer 4) (s : State) :
    SameMoment s (attachComplete ans s) := by
  unfold attachComplete
  split
  · split <;> simp [SameMoment]
  all_goals simp [SameMoment]

theorem releaseComplete_moment (k : StationId) (s : State) : SameMoment s (releaseComplete k s) := by
  unfold releaseComplete
  split <;> simp [SameMoment]

/-! ### The receiver and the frames taken -/

theorem characterComplete_moment (k : StationId) (c : SampledChar) (s : State) :
    SameMoment s (characterComplete k c s) := by
  unfold characterComplete
  dsimp only
  split
  · simp [SameMoment]
  · split
    · simp [SameMoment]
    · split <;> simp [SameMoment]

theorem lineReturnedToMark_moment (k : StationId) (s : State) :
    SameMoment s (lineReturnedToMark k s) := by
  simp [SameMoment, lineReturnedToMark]

@[simp] theorem popFrame_moment (s : State) (k : StationId) : SameMoment s (s.popFrame k) := by
  simp [SameMoment, State.popFrame]

/-- A frame is taken in the moment in which it is handled (R107). -/
theorem takeFrame_moment {f : State → State} (hf : ∀ s, SameMoment s (f s)) (s : State)
    (k : StationId) : SameMoment s (s.takeFrame k f) := by
  unfold State.takeFrame
  split
  · simp [SameMoment]
  · exact (popFrame_moment s k).trans (hf _)

theorem accTaken_moment (k : StationId) (seq : Seq) (s : State) : SameMoment s (accTaken k seq s) := by
  unfold accTaken
  split <;> simp [SameMoment]

theorem doneTaken_moment (k : StationId) (seq : Seq) (s : State) :
    SameMoment s (doneTaken k seq s) := by
  unfold doneTaken
  dsimp only
  split <;> simp [SameMoment]

@[simp] theorem retryDecision_moment (k : StationId) (s : State) :
    SameMoment s (retryDecision k s) := by
  unfold retryDecision
  dsimp only
  split <;> simp [SameMoment]

theorem nakCheckTaken_moment (k : StationId) (seq : Seq) (s : State) :
    SameMoment s (nakCheckTaken k seq s) := by
  unfold nakCheckTaken
  split <;> simp [SameMoment]

theorem nakFullTaken_moment (k : StationId) (seq : Seq) (s : State) :
    SameMoment s (nakFullTaken k seq s) := by
  unfold nakFullTaken
  split <;> simp [SameMoment]

theorem nakTravelTaken_moment (k : StationId) (seq : Seq) (s : State) :
    SameMoment s (nakTravelTaken k seq s) := by
  unfold nakTravelTaken
  split <;> simp [SameMoment]

theorem fltTaken_moment (k : StationId) (code : Byte) (s : State) :
    SameMoment s (fltTaken k code s) := by
  simp [SameMoment, fltTaken]

theorem accFrame_moment (k : StationId) (s : State) : SameMoment s (accFrame k s) := by
  unfold accFrame
  split
  · exact takeFrame_moment (accTaken_moment k _) s k
  all_goals simp [SameMoment]

theorem doneFrame_moment (k : StationId) (s : State) : SameMoment s (doneFrame k s) := by
  unfold doneFrame
  split
  · exact takeFrame_moment (doneTaken_moment k _) s k
  all_goals simp [SameMoment]

theorem nakCheck_moment (k : StationId) (s : State) : SameMoment s (nakCheck k s) := by
  unfold nakCheck
  split
  · split
    · exact takeFrame_moment (nakCheckTaken_moment k _) s k
    · simp [SameMoment]
  all_goals simp [SameMoment]

theorem nakFull_moment (k : StationId) (s : State) : SameMoment s (nakFull k s) := by
  unfold nakFull
  split
  · split
    · exact takeFrame_moment (nakFullTaken_moment k _) s k
    · simp [SameMoment]
  all_goals simp [SameMoment]

theorem nakTravel_moment (k : StationId) (s : State) : SameMoment s (nakTravel k s) := by
  unfold nakTravel
  split
  · split
    · simp [SameMoment]
    · exact takeFrame_moment (nakTravelTaken_moment k _) s k
  all_goals simp [SameMoment]

theorem fltFrame_moment (k : StationId) (s : State) : SameMoment s (fltFrame k s) := by
  unfold fltFrame
  split
  · exact takeFrame_moment (fltTaken_moment k _) s k
  all_goals simp [SameMoment]

/-! ### The end of a frame sent, and READY -/

@[simp] theorem frameEffect_moment (k : StationId) (kind : TxKind) (s : State) :
    SameMoment s (frameEffect k kind s) := by
  cases kind with
  | halt => simp [SameMoment, frameEffect]
  | go => simp [SameMoment, frameEffect]
  | seg q void =>
    unfold frameEffect
    dsimp only
    split <;> simp [SameMoment]
  | resend q void =>
    unfold frameEffect
    dsimp only
    split <;> simp [SameMoment]

@[simp] theorem endResetWork_moment (k : StationId) (s : State) : SameMoment s (endResetWork k s) := by
  unfold endResetWork
  split <;> simp [SameMoment]

theorem readyChange_moment (k : StationId) (asserted : Bool) (s : State) :
    SameMoment s (readyChange k asserted s) := by
  simp [SameMoment, readyChange]

/-! ### The commit -/

theorem moveOverwritten_moment (s : State) (k : StationId) : SameMoment s (s.moveOverwritten k) := by
  unfold State.moveOverwritten
  split <;> simp [SameMoment]

theorem moveLagging_moment (s : State) (k : StationId) : SameMoment s (s.moveLagging k) := by
  unfold State.moveLagging
  split <;> simp [SameMoment]

@[simp] theorem startApply_moment (t : ProcTxn) (s : State) : SameMoment s (startApply t s) := by
  simp [SameMoment, startApply, foldl_moment moveOverwritten_moment, foldl_moment moveLagging_moment]

@[simp] theorem attemptCommit_moment (t : ProcTxn) (s : State) : SameMoment s (attemptCommit t s) := by
  unfold attemptCommit
  split
  · simp [SameMoment]
  · split <;> simp [SameMoment]

@[simp] theorem journalWrite_moment (t : WriteTxn) (s : State) : SameMoment s (journalWrite t s) := by
  unfold journalWrite
  dsimp only
  split
  · simp [SameMoment]
  · split
    · simp [SameMoment]
    · split
      · split <;> simp [SameMoment]
      · split <;> simp [SameMoment]

@[simp] theorem joinAll_moment (s : State) : SameMoment s (joinAll s) :=
  foldl_moment (by simp [SameMoment]) stationOrder s

@[simp] theorem insertSync_moment (s : State) : SameMoment s (insertSync s) := by
  unfold insertSync
  split <;> simp [SameMoment]

@[simp] theorem oweEnd_moment (s : State) : SameMoment s (oweEnd s) := by
  unfold oweEnd
  split <;> simp [SameMoment]

@[simp] theorem commitEnd_moment (s : State) : SameMoment s (commitEnd s) := by
  simp [SameMoment, commitEnd]

@[simp] theorem commitFail_moment (addr : Word) (s : State) : SameMoment s (commitFail addr s) := by
  simp [SameMoment, commitFail]

@[simp] theorem travelFault_moment (s : State) (k : StationId) : SameMoment s (s.travelFault k) := by
  simp [SameMoment, State.travelFault]

@[simp] theorem commitNext_moment (t : ProcTxn) :
    ∀ (l : List StationId) (s : State), SameMoment s (commitNext t l s)
  | [], s => commitEnd_moment s
  | k :: l, s => by
    unfold commitNext
    split
    · split
      · exact (travelFault_moment s k).trans (commitNext_moment t l _)
      · simp [SameMoment]
    · exact commitNext_moment t l s

@[simp] theorem postOk_moment (k : StationId) (copy : Record) (s : State) :
    SameMoment s (postOk k copy s) := by
  unfold postOk
  split <;> simp [SameMoment, State.advancePost]

@[simp] theorem postFault_moment (k : StationId) (addr : Word) (copy : Record) (s : State) :
    SameMoment s (postFault k addr copy s) := by
  simp [SameMoment, postFault]

theorem journalWriteAnswer_moment (ans : WriteAnswer) (s : State) :
    SameMoment s (journalWriteAnswer ans s) := by
  unfold journalWriteAnswer
  split
  · cases ans <;> simp [SameMoment]
  all_goals simp [SameMoment]

theorem postWriteAnswer_moment (ans : WriteAnswer) (s : State) :
    SameMoment s (postWriteAnswer ans s) := by
  unfold postWriteAnswer
  split
  · cases ans <;> simp [SameMoment]
  all_goals simp [SameMoment]

/-! ### The replay engine -/

theorem replayTurnGrant_moment (s : State) : SameMoment s (replayTurnGrant s) := by
  unfold replayTurnGrant
  split <;> simp [SameMoment]

@[simp] theorem turnCopy_moment (t : ReplayTurn) (copy : Record) (s : State) :
    SameMoment s (turnCopy t copy s) := by
  simp [SameMoment, turnCopy]

@[simp] theorem turnOutcome_moment (t : ReplayTurn) (ans : ReadAnswer 8) (s : State) :
    SameMoment s (turnOutcome t ans s) := by
  cases ans with
  | fault => simp [SameMoment, turnOutcome]
  | ok r =>
    unfold turnOutcome
    dsimp only
    split
    · split <;> simp [SameMoment]
    · simp [SameMoment]

theorem replayReadAnswer_moment (ans : ReadAnswer 8) (s : State) :
    SameMoment s (replayReadAnswer ans s) := by
  unfold replayReadAnswer
  split
  · split
    · simp [SameMoment]
    · split <;> simp [SameMoment]
  all_goals simp [SameMoment]

@[simp] theorem turnWritten_moment (t : ReplayTurn) (copy : Record) (s : State) :
    SameMoment s (turnWritten t copy s) := by
  unfold turnWritten
  split <;> simp [SameMoment]

@[simp] theorem turnWriteFault_moment (t : ReplayTurn) (copy : Record) (s : State) :
    SameMoment s (turnWriteFault t copy s) := by
  simp [SameMoment, turnWriteFault]

theorem replayWriteAnswer_moment (ans : WriteAnswer) (s : State) :
    SameMoment s (replayWriteAnswer ans s) := by
  unfold replayWriteAnswer
  split
  · split
    · simp [SameMoment]
    · cases ans <;> simp [SameMoment]
  all_goals simp [SameMoment]

/-! ### The memory port and the status writer -/

@[simp] theorem carry_moment (s : State) (r : Requester) (t : MemTxn) :
    SameMoment s (s.carry r t) := by
  simp [SameMoment, State.carry]

@[simp] theorem beginRecord_moment (r : RecordId) (s : State) : SameMoment s (beginRecord r s) := by
  simp [SameMoment, beginRecord]

@[simp] theorem grantStatus_moment (s : State) : SameMoment s (grantStatus s) := by
  unfold grantStatus
  split <;> simp [SameMoment]

@[simp] theorem beginPlain_moment (offset : Nat) (r : Record) (s : State) :
    SameMoment s (beginPlain offset r s) := by
  simp [SameMoment, beginPlain]

@[simp] theorem grantPass_moment (i : Nat) (s : State) : SameMoment s (grantPass i s) := by
  unfold grantPass
  split <;> simp [SameMoment]

@[simp] theorem grantTo_moment (r : Requester) (s : State) : SameMoment s (grantTo r s) := by
  unfold grantTo
  split
  all_goals split <;> simp [SameMoment]

theorem arbiterGrant_moment (s : State) : SameMoment s (arbiterGrant s) := by
  unfold arbiterGrant
  split
  · split <;> simp [SameMoment]
  · simp [SameMoment]

@[simp] theorem setPendingBits_moment (bits : Word) (s : State) :
    SameMoment s (setPendingBits bits s) := by
  simp [SameMoment, setPendingBits]

@[simp] theorem endStatusWrite_moment (s : State) : SameMoment s (endStatusWrite s) := by
  simp [SameMoment, endStatusWrite]

@[simp] theorem secondHalf_moment (w : StatusWrite) (addr : Word) (r : Record) (s : State) :
    SameMoment s (secondHalf w addr r s) := by
  simp [SameMoment, secondHalf]

@[simp] theorem returnOwed_moment (w : StatusWrite) (s : State) : SameMoment s (returnOwed w s) := by
  unfold returnOwed
  split <;> simp [SameMoment]

@[simp] theorem statusFault_moment (w : StatusWrite) (t : MemTxn) (s : State) :
    SameMoment s (statusFault w t s) := by
  simp [SameMoment, statusFault]

theorem statusWriteAnswer_moment (ans : WriteAnswer) (s : State) :
    SameMoment s (statusWriteAnswer ans s) := by
  unfold statusWriteAnswer
  split
  · split <;> simp [SameMoment]
  all_goals simp [SameMoment]

@[simp] theorem passGoesOn_moment (i : Nat) (s : State) : SameMoment s (passGoesOn i s) := by
  unfold passGoesOn
  split <;> simp [SameMoment]

theorem initWriteAnswer_moment (ans : WriteAnswer) (s : State) :
    SameMoment s (initWriteAnswer ans s) := by
  unfold initWriteAnswer
  split
  · split <;> simp [SameMoment]
  all_goals simp [SameMoment]

/-! ### Drain reads -/

@[simp] theorem endDrain_moment (k : StationId) (s : State) : SameMoment s (endDrain k s) := by
  simp [SameMoment, endDrain]

@[simp] theorem spoil_moment (k : StationId) (seq : Seq) (s : State) : SameMoment s (spoil k seq s) := by
  unfold spoil
  split <;> simp [SameMoment]

@[simp] theorem drainOutcome_moment (k : StationId) (d : DrainRead) (ans : ReadAnswer 8) (s : State) :
    SameMoment s (drainOutcome k d ans s) := by
  cases ans with
  | fault => simp [SameMoment, drainOutcome]
  | ok r =>
    unfold drainOutcome
    dsimp only
    split <;> simp [SameMoment]

theorem drainReadAnswer_moment (ans : ReadAnswer 8) (s : State) :
    SameMoment s (drainReadAnswer ans s) := by
  unfold drainReadAnswer
  split
  · split
    · split <;> simp [SameMoment]
    · simp [SameMoment]
  all_goals simp [SameMoment]

/-! ### Resets and start-up -/

/-- POWER_ON_RESET leaves the queue and the model's time (R181). -/
theorem powerOnReset_moment (s : State) : SameMoment s (powerOnReset s) := ⟨rfl, rfl⟩

theorem porstNegation_moment (v : InputLevels) (s : State) : SameMoment s (porstNegation v s) := by
  unfold porstNegation
  split <;> simp [SameMoment]

theorem busReset_moment (s : State) : SameMoment s (busReset s) := by
  unfold busReset
  split
  · simp [SameMoment]
  · split <;> simp [SameMoment, busResetValues]

@[simp] theorem startPass_moment (s : State) : SameMoment s (startPass s) := by
  unfold startPass
  split <;> simp [SameMoment]

theorem busrstNegation_moment (s : State) : SameMoment s (busrstNegation s) := by
  unfold busrstNegation
  split
  · split <;> simp [SameMoment]
  · simp [SameMoment]

@[simp] theorem driving_moment (acts : List BusAct) (s : State) : SameMoment s (driving acts s) :=
  ⟨rfl, rfl⟩

@[simp] theorem withBytes_moment (got : List Byte) (s : State) : SameMoment s (withBytes got s) :=
  ⟨rfl, rfl⟩

@[simp] theorem bootDone_moment (r : Regions) (s : State) : SameMoment s (bootDone r s) := by
  simp [SameMoment, bootDone]

@[simp] theorem takeStraps_moment (s : State) : SameMoment s (takeStraps s) := by
  simp [SameMoment, takeStraps]

@[simp] theorem logBootBad_moment (cause : BootCause) (s : State) :
    SameMoment s (logBootBad cause s) := by
  simp [SameMoment, logBootBad]

theorem bootDeviceNack_moment (s : State) : SameMoment s (bootDeviceNack s) := by
  unfold bootDeviceNack
  split <;> simp [SameMoment]

theorem bootAddressNack_moment (s : State) : SameMoment s (bootAddressNack s) := by
  unfold bootAddressNack
  split <;> simp [SameMoment]

theorem bootStretchTimeout_moment (got : List Byte) (s : State) :
    SameMoment s (bootStretchTimeout got s) := by
  unfold bootStretchTimeout
  split <;> simp [SameMoment]

theorem bootArbitrationLost_moment (lost : LostAttempt) (s : State) :
    SameMoment s (bootArbitrationLost lost s) := by
  unfold bootArbitrationLost
  split
  · split <;> simp [SameMoment]
  · simp [SameMoment]

theorem bootReadEnd_moment (b : Vector Byte 16) (s : State) : SameMoment s (bootReadEnd b s) := by
  unfold bootReadEnd
  dsimp only
  split
  · split <;> simp [SameMoment]
  · simp [SameMoment]

/-! ### Writes into the control page -/

@[simp] theorem setStationShadow_moment (s : State) (k : StationId) (w : Fin 16) (v : Word) :
    SameMoment s (setStationShadow s k w v) := ⟨rfl, rfl⟩

@[simp] theorem setJobShadow_moment (s : State) (w : Fin 16) (v : Word) :
    SameMoment s (setJobShadow s w v) := ⟨rfl, rfl⟩

@[simp] theorem copyLine_moment (k : StationId) (s : State) : SameMoment s (copyLine k s) := by
  unfold copyLine
  split <;> simp [SameMoment]

@[simp] theorem restartAckTimer_moment (k : StationId) (s : State) :
    SameMoment s (restartAckTimer k s) := by
  unfold restartAckTimer
  split <;> simp [SameMoment]

theorem applyStationWord_moment (k : StationId) (w : Fin 16) (v : Word) (s : State) :
    SameMoment s (applyStationWord k w v s) := by
  have hdue : SameMoment s (if w = 14 then s.breakDue k else s) := by
    split <;> simp [SameMoment]
  refine hdue.trans ?_
  unfold applyStationWord
  dsimp only
  generalize (if w = 14 then s.breakDue k else s) = d
  split
  · simp [SameMoment]
  · split
    · simp [SameMoment]
    · split <;> simp [SameMoment]

@[simp] theorem acknowledge_moment (v : Word) (s : State) : SameMoment s (acknowledge v s) := by
  unfold acknowledge
  dsimp only
  split <;> simp [SameMoment]

theorem applyJobWord_moment (w : Fin 16) (v : Word) (s : State) :
    SameMoment s (applyJobWord w v s) := by
  unfold applyJobWord
  dsimp only
  split
  · simp [SameMoment]
  · split <;> simp [SameMoment]

theorem applyWord_moment (v : Word) (s : State) (a : PageWord) : SameMoment s (applyWord v s a) := by
  cases a with
  | table index => exact ⟨rfl, rfl⟩
  | station k w => exact applyStationWord_moment k w v s
  | job w => exact applyJobWord_moment w v s
  | unused => exact ⟨rfl, rfl⟩
  | status => exact ⟨rfl, rfl⟩

@[simp] theorem applyWords_moment :
    ∀ (offset : Nat) (ws : List WriteWord) (s : State), SameMoment s (applyWords offset ws s)
  | _, [], _ => ⟨rfl, rfl⟩
  | offset, w :: ws, s =>
    (applyWord_moment w.data s (pageWord offset)).trans (applyWords_moment (offset + 4) ws _)

@[simp] theorem pageWrite_moment (t : WriteTxn) (s : State) : SameMoment s (pageWrite t s) := by
  unfold pageWrite
  dsimp only
  split <;> simp [SameMoment]

/-! ### The processor port and the descriptor search -/

@[simp] theorem forwardTo_moment (t : ProcTxn) (addr : Word) (s : State) :
    SameMoment s (forwardTo t addr s) := by
  simp [SameMoment, forwardTo]

@[simp] theorem actOnPass_moment (t : ProcTxn) (d : Descriptor) (s : State) :
    SameMoment s (actOnPass t d s) := by
  unfold actOnPass
  split <;> simp [SameMoment]

@[simp] theorem actOnWindow_moment (t : ProcTxn) (index : BitVec 5) (d : Descriptor) (s : State) :
    SameMoment s (actOnWindow t index d s) := by
  unfold actOnWindow
  split
  · simp [SameMoment]
  · simp [SameMoment]
  · split <;> simp [SameMoment]
  all_goals simp [SameMoment]

@[simp] theorem windowAccess_moment (t : ProcTxn) (s : State) : SameMoment s (windowAccess t s) := by
  unfold windowAccess
  split <;> simp [SameMoment]

@[simp] theorem pageAccess_moment (t : ProcTxn) (s : State) : SameMoment s (pageAccess t s) := by
  cases t <;> simp [SameMoment, pageAccess]

@[simp] theorem routed_moment (t : ProcTxn) (s : State) : SameMoment s (routed t s) := by
  unfold routed
  split
  · split
    · simp [SameMoment]
    · split <;> simp [SameMoment]
  · simp [SameMoment]

theorem present_moment (t : ProcTxn) (s : State) : SameMoment s (present t s) := by
  unfold present
  split
  · simp [SameMoment]
  · split
    · simp [SameMoment]
    · split <;> simp [SameMoment]

@[simp] theorem countSearch_moment (s : State) : SameMoment s (countSearch s) := by
  simp [SameMoment, countSearch]

@[simp] theorem scanDecision_moment (t : ProcTxn) (got : List (Word × Word)) (s : State) :
    SameMoment s (scanDecision t got s) := by
  unfold scanDecision
  split
  · simp [SameMoment]
  · split <;> simp [SameMoment]

@[simp] theorem searchFault_moment (addr : Word) (s : State) : SameMoment s (searchFault addr s) := by
  simp [SameMoment, searchFault]

@[simp] theorem searchFound_moment (t : ProcTxn) (index : BitVec 5) (d : Descriptor) (s : State) :
    SameMoment s (searchFound t index d s) := by
  simp [SameMoment, searchFound]

theorem scanReadAnswer_moment (ans : ReadAnswer 2) (s : State) :
    SameMoment s (scanReadAnswer ans s) := by
  unfold scanReadAnswer
  split
  · cases ans with
    | fault => simp [SameMoment]
    | ok v =>
      dsimp only
      split <;> simp [SameMoment]
  all_goals simp [SameMoment]

theorem detailReadAnswer_moment (ans : ReadAnswer 2) (s : State) :
    SameMoment s (detailReadAnswer ans s) := by
  unfold detailReadAnswer
  split
  · cases ans with
    | fault => simp [SameMoment]
    | ok v =>
      dsimp only
      split <;> simp [SameMoment]
  all_goals simp [SameMoment]

theorem forwardAnswer_moment (ans : ForwardAnswer) (s : State) :
    SameMoment s (forwardAnswer ans s) := by
  unfold forwardAnswer
  split
  · cases ans <;> simp [SameMoment]
  all_goals simp [SameMoment]

end Sys2Proof.Machine
end

section
/-! The events that let time pass until their due time (log 3), and what every command answers. -/

namespace Sys2Proof.Machine

/-- The queue of `t` is that of `s`, and its time is no earlier. -/
def Advances (s t : State) : Prop := t.pending = s.pending ∧ s.now ≤ t.now

theorem SameMoment.advances {s t : State} (h : SameMoment s t) : Advances s t := ⟨h.1, h.2.ge⟩

theorem Advances.refl (s : State) : Advances s s := ⟨rfl, Nat.le_refl _⟩

theorem Advances.andThen {s t u : State} (h : Advances s t) (g : SameMoment t u) : Advances s u :=
  ⟨g.1.trans h.1, h.2.trans_eq g.2.symm⟩

/-- Time passes in `reach` alone. -/
theorem reach_advances (s : State) (n : Nat) : Advances s (s.reach n) := ⟨rfl, Nat.le_max_left ..⟩

/-! ### Timed events -/

theorem breakQualifiedChange_advances (k : StationId) (s : State) :
    Advances s (breakQualifiedChange k s) := by
  unfold breakQualifiedChange
  split
  · exact (reach_advances ..).andThen (breakQualifies_moment ..)
  · exact .refl s

theorem stopAssertion_advances (s : State) : Advances s (stopAssertion s) := by
  unfold stopAssertion
  split
  · exact (reach_advances ..).andThen (stopChanges_moment _)
  all_goals exact .refl s

theorem stopNegation_advances (s : State) : Advances s (stopNegation s) := by
  unfold stopNegation
  split
  · exact (reach_advances ..).andThen (stopChanges_moment _)
  all_goals exact .refl s

theorem frameEnd_advances (k : StationId) (s : State) : Advances s (frameEnd k s) := by
  unfold frameEnd
  dsimp only
  split
  · exact .refl s
  · split
    · split <;> simp [Advances]
    · simp [Advances]
    · simp [Advances]

theorem ackTimerExpiry_advances (k : StationId) (s : State) : Advances s (ackTimerExpiry k s) := by
  unfold ackTimerExpiry
  split
  · exact (reach_advances ..).andThen (retryDecision_moment ..)
  · exact .refl s

theorem setLink_moment (s : State) (k : StationId) (l : Link) : SameMoment s (s.setLink k l) :=
  ⟨rfl, rfl⟩

theorem countRetry_moment (s : State) (k : StationId) : SameMoment s (s.countRetry k) := ⟨rfl, rfl⟩

theorem beginTx_advances (s : State) (k : StationId) (kind : TxKind) (bytes : List Byte) :
    Advances s (s.beginTx k kind bytes) :=
  (reach_advances s (wireFreeAt s.links[k])).andThen ⟨rfl, rfl⟩

theorem haltBegin_advances (k : StationId) (s : State) : Advances s (haltBegin k s) := by
  unfold haltBegin
  split
  · exact beginTx_advances ..
  all_goals exact .refl s

theorem goBegin_advances (k : StationId) (s : State) : Advances s (goBegin k s) := by
  unfold goBegin
  split
  · split
    · exact (beginTx_advances s k .go goFrame).andThen (setLink_moment ..)
    · exact .refl s
  all_goals exact .refl s

theorem segBegin_advances (k : StationId) (s : State) : Advances s (segBegin k s) := by
  unfold segBegin
  split
  · split
    · exact beginTx_advances ..
    · exact .refl s
  all_goals exact .refl s

theorem resendBegin_advances (k : StationId) (s : State) : Advances s (resendBegin k s) := by
  unfold resendBegin
  dsimp only
  split
  · split
    · exact (beginTx_advances s k (.resend _ false) (segFrame _)).andThen
        (.trans (setLink_moment ..) (countRetry_moment ..))
    · exact .refl s
  all_goals exact .refl s

theorem frameTransmitEnd_advances (k : StationId) (s : State) : Advances s (frameTransmitEnd k s) := by
  unfold frameTransmitEnd
  split
  · simp [Advances]
  · exact .refl s

theorem bootAttempt_advances (s : State) : Advances s (bootAttempt s) := by
  unfold bootAttempt
  split
  · exact (reach_advances s _).andThen ⟨rfl, rfl⟩
  all_goals exact .refl s

theorem bootBusBusyTimeout_advances (s : State) : Advances s (bootBusBusyTimeout s) := by
  unfold bootBusBusyTimeout
  split
  · simp [Advances]
  all_goals exact .refl s

/-! ### The rows by kind -/

/-- The outcome is a next state, to which `s` advances. -/
def GoesOn (s : State) (o : Host.Outcome State Fault Refusal) : Prop :=
  ∃ t, o = .next t ∧ Advances s t

theorem goOn_goesOn {s t : State} (h : Advances s t) : GoesOn s (goOn t) := ⟨t, rfl, h⟩

theorem act_advances {f : State → State} (hf : ∀ s, Advances s (f s)) (s : State) :
    Advances s (s.act f) := by
  unfold State.act
  split
  · exact .refl s
  · exact (hf s).andThen (by simp [SameMoment])

/-- A row that does nothing under PORST_N and may let time pass. -/
theorem timed_goesOn {f : State → State} (hf : ∀ s, Advances s (f s)) (s : State) :
    GoesOn s (goOn (s.act f)) := goOn_goesOn (act_advances hf s)

/-- A row that does nothing under PORST_N and lets no time pass. -/
theorem untimed_goesOn {f : State → State} (hf : ∀ s, SameMoment s (f s)) (s : State) :
    GoesOn s (goOn (s.act f)) := timed_goesOn (fun s => (hf s).advances) s

theorem actAnswer_goesOn {α : Type} {f : α → State → State} (hf : ∀ x s, SameMoment s (f x s))
    (s : State) (a : Arrived α) : GoesOn s (s.actAnswer f a) := by
  cases a with
  | current late x =>
    exact goOn_goesOn ((act_advances (fun s => (hf x s).advances) s).andThen (by simp [SameMoment]))
  | abandoned => exact goOn_goesOn (.refl s)

theorem presented_goesOn (p : ProcTxn) (s : State) : GoesOn s (presented p s) :=
  goOn_goesOn ((present_moment p s).advances.andThen (by simp [SameMoment]))

/-! ### Every command -/

theorem exec_goesOn (i : Instr) (s : State) : GoesOn s (exec i s) := by
  cases i with
  | powerOnReset => exact goOn_goesOn (powerOnReset_moment s).advances
  | porstNegation levels => exact goOn_goesOn (porstNegation_moment levels s).advances
  | busReset => exact goOn_goesOn (busReset_moment s).advances
  | busrstNegation => exact goOn_goesOn (busrstNegation_moment s).advances
  | bootAttempt => exact timed_goesOn bootAttempt_advances s
  | bootBusBusyTimeout => exact timed_goesOn bootBusBusyTimeout_advances s
  | bootDeviceNack => exact untimed_goesOn bootDeviceNack_moment s
  | bootAddressNack => exact untimed_goesOn bootAddressNack_moment s
  | bootStretchTimeout got => exact untimed_goesOn (bootStretchTimeout_moment got) s
  | bootArbitrationLost lost => exact untimed_goesOn (bootArbitrationLost_moment lost) s
  | bootReadEnd bytes => exact untimed_goesOn (bootReadEnd_moment bytes) s
  | initWriteAnswer ans => exact actAnswer_goesOn initWriteAnswer_moment s ans
  | scanReadAnswer ans => exact actAnswer_goesOn scanReadAnswer_moment s ans
  | detailReadAnswer ans => exact actAnswer_goesOn detailReadAnswer_moment s ans
  | forwardAnswer ans => exact actAnswer_goesOn forwardAnswer_moment s ans
  | journalWriteAnswer ans => exact actAnswer_goesOn journalWriteAnswer_moment s ans
  | postWriteAnswer ans => exact actAnswer_goesOn postWriteAnswer_moment s ans
  | processorRead | processorWrite | journalWindowWrite | descriptorTableWrite | controlBlockWrite
  | breakFilterTimeWrite | breakPolarityWrite | ackTimeoutWrite | acknowledgeWrite
  | interruptEnableWrite => exact presented_goesOn _ s
  | openJob | closeJob | jobBadCmd => exact presented_goesOn _ s
  | attach | detach | reattach | hold | resume | clear | release | stationBadCmd =>
    exact presented_goesOn _ s
  | openComplete ans => exact actAnswer_goesOn openComplete_moment s ans
  | attachComplete ans => exact actAnswer_goesOn attachComplete_moment s ans
  | releaseComplete k => exact untimed_goesOn (releaseComplete_moment k) s
  | replayTurnGrant => exact untimed_goesOn replayTurnGrant_moment s
  | replayReadAnswer ans => exact actAnswer_goesOn replayReadAnswer_moment s ans
  | replayWriteAnswer ans => exact actAnswer_goesOn replayWriteAnswer_moment s ans
  | arbiterGrant => exact untimed_goesOn arbiterGrant_moment s
  | statusWriteAnswer ans => exact actAnswer_goesOn statusWriteAnswer_moment s ans
  | drainReadAnswer ans => exact actAnswer_goesOn drainReadAnswer_moment s ans
  | frameEnd k => exact timed_goesOn (frameEnd_advances k) s
  | accFrame k => exact untimed_goesOn (accFrame_moment k) s
  | doneFrame k => exact untimed_goesOn (doneFrame_moment k) s
  | nakCheck k => exact untimed_goesOn (nakCheck_moment k) s
  | nakFull k => exact untimed_goesOn (nakFull_moment k) s
  | nakTravel k => exact untimed_goesOn (nakTravel_moment k) s
  | fltFrame k => exact untimed_goesOn (fltFrame_moment k) s
  | ackTimerExpiry k => exact timed_goesOn (ackTimerExpiry_advances k) s
  | haltBegin k => exact timed_goesOn (haltBegin_advances k) s
  | goBegin k => exact timed_goesOn (goBegin_advances k) s
  | segBegin k => exact timed_goesOn (segBegin_advances k) s
  | resendBegin k => exact timed_goesOn (resendBegin_advances k) s
  | frameTransmitEnd k => exact timed_goesOn (frameTransmitEnd_advances k) s
  | readyChange k asserted => exact goOn_goesOn (readyChange_moment k asserted s).advances
  | breakLineChange k level => exact untimed_goesOn (breakLineChange_moment k level) s
  | breakQualifiedChange k => exact timed_goesOn (breakQualifiedChange_advances k) s
  | stopLineChange level => exact untimed_goesOn (stopLineChange_moment level) s
  | stopAssertion => exact timed_goesOn stopAssertion_advances s
  | stopNegation => exact timed_goesOn stopNegation_advances s
  | characterComplete k sample => exact untimed_goesOn (characterComplete_moment k sample) s
  | lineReturnedToMark k => exact untimed_goesOn (lineReturnedToMark_moment k) s

/-- Settles O2: the rows by kind, those that let time pass and those that do not. -/
theorem everyCommandGoesOn : Obligations.EveryCommandGoesOn := exec_goesOn

/-! ### A step -/

theorem step_of_front {c : Instr} {rest : List Instr} (s : State) :
    step { s with pending := c :: rest } = exec c { s with pending := rest } := rfl

theorem step_of_empty {s : State} (h : s.pending = []) : step s = .next { s with now := s.now + 1 } := by
  rw [step, h]

/-- Settles O1: the two cases of the queue. -/
theorem stepRunsFrontCommand : Obligations.StepRunsFrontCommand :=
  ⟨fun _ _ s => step_of_front s, fun _ h => step_of_empty h⟩

end Sys2Proof.Machine
end
